-- ==== Sys2Proof/Word.lean ====
section
/-! DEFINITION. The three widths of 00_scope.md R11: `u8`, `u16` and `u32`, all unsigned. -/

namespace Sys2Proof

/-- `u8` (00_scope.md R11). -/
abbrev Byte := BitVec 8

/-- `u16` (00_scope.md R11). -/
abbrev Half := BitVec 16

/-- `u32` (00_scope.md R11). -/
abbrev Word := BitVec 32

end Sys2Proof
end

