-- ==== Sys2Proof/Syntax.lean ====
section
/-! DEFINITION. The enumerations of 00_scope.md R14, the instructions (one constructor per row of
spec/opcode_table.json) and the events the agents of R7 present to the block. -/

namespace Sys2Proof

/-- A category: application banks (firmware) or auxiliary banks (00_scope.md R14, R16). -/
inductive Cat where
  | app
  | aux
  deriving DecidableEq, Repr

/-- The bank number of a category, 0 or 1 (00_scope.md R6, R14: exactly two banks per category). -/
inductive Bank where
  | b0
  | b1
  deriving DecidableEq, Repr

/-- `Target` of 00_scope.md R14. -/
inductive Target where
  | appBank0
  | appBank1
  | auxBank0
  | auxBank1
  deriving DecidableEq, Repr

/-- `cat(t)` of 00_scope.md R14. -/
def Target.cat : Target → Cat
  | .appBank0 | .appBank1 => .app
  | .auxBank0 | .auxBank1 => .aux

/-- `bank(t)` of 00_scope.md R14. -/
def Target.bank : Target → Bank
  | .appBank0 | .auxBank0 => .b0
  | .appBank1 | .auxBank1 => .b1

/-- The target whose category and bank are the two given. -/
def Target.make : Cat → Bank → Target
  | .app, .b0 => .appBank0
  | .app, .b1 => .appBank1
  | .aux, .b0 => .auxBank0
  | .aux, .b1 => .auxBank1

/-- `Active` of 00_scope.md R14. -/
inductive Active where
  | none
  | bank0
  | bank1
  deriving DecidableEq, Repr

/-- `Kind` of 00_scope.md R14: the seven frame kinds. -/
inductive Kind where
  | readRequest
  | writeRequest
  | data
  | ack
  | error
  | command
  | debug
  deriving DecidableEq, Repr

/-- `Cmd` of 00_scope.md R14: the thirteen commands. -/
inductive Cmd where
  | boot
  | reset
  | swap
  | bootInfo
  | powerOn
  | powerOff
  | endTransfer
  | spiEnd
  | triggerWatchdog
  | eraseSpi
  | setBank0
  | setBank1
  | crc
  deriving DecidableEq, Repr

/-- All commands, in the order of 30_encoding.md R115. -/
def Cmd.all : List Cmd :=
  [.boot, .reset, .swap, .bootInfo, .powerOn, .powerOff, .endTransfer, .spiEnd, .triggerWatchdog,
   .eraseSpi, .setBank0, .setBank1, .crc]

/-- `ErrClass` of 00_scope.md R14. -/
inductive ErrClass where
  | framing
  | sequence
  | crcMismatch
  | storage
  | transport
  | partitionCorrupt
  | state
  deriving DecidableEq, Repr

/-- A storage device (20_memory.md R60). -/
inductive Device where
  | flash
  | spi
  deriving DecidableEq, Repr

/-- One instruction: a row of spec/opcode_table.json. The operands of a frame are the decoded wires of
10_state.md R22; the operands of an operation are the fields of 30_encoding.md R125. -/
inductive Instr where
  /-- `RRQ` (41_frame_parser.md R165): `F_LENGTH` and `F_NAME`. -/
  | rrq (length : Word) (name : List Byte)
  /-- `WRQ` (R170): `F_NAME`. -/
  | wrq (name : List Byte)
  /-- `DATA` (R175): `F_BLOCK` and `F_PAYLOAD`. -/
  | data (block : Half) (payload : List Byte)
  /-- `ACK` (R180): `F_BLOCK`. -/
  | ack (block : Half)
  /-- `ERROR` (R185): `F_CODE`; the message is not an operand. -/
  | error (code : Half)
  /-- `CMD` (R200): `F_CODE` and the `data` bytes after it (30_encoding.md R107). -/
  | cmd (code : Half) (tail : List Byte)
  /-- `DEBUG` (R190). -/
  | debug
  /-- `CMD Boot` (R210). -/
  | cmdBoot
  /-- `CMD Reset` (R211). -/
  | cmdReset
  /-- `CMD Swap` (R212). -/
  | cmdSwap
  /-- `CMD BootInfo` (R213). -/
  | cmdBootInfo
  /-- `CMD PowerOn` (R214). -/
  | cmdPowerOn
  /-- `CMD PowerOff` (R215). -/
  | cmdPowerOff
  /-- `CMD End` (R216). -/
  | cmdEnd
  /-- `CMD SpiEnd` (R217). -/
  | cmdSpiEnd
  /-- `CMD TriggerWatchdog` (R218). -/
  | cmdTriggerWatchdog
  /-- `CMD EraseSpi` (R219). -/
  | cmdEraseSpi
  /-- `CMD SetBank0` (R220). -/
  | cmdSetBank0
  /-- `CMD SetBank1` (R221). -/
  | cmdSetBank1
  /-- `CMD Crc` (R205): `F_CRC`. -/
  | cmdCrc (value : Word)
  /-- `SESSION_RESET` (43_session_driver.md R231). -/
  | sessionReset
  /-- `LOAD` (44_descriptor_validator.md R265). -/
  | load (c : Cat)
  /-- `VALIDATE` (R270). -/
  | validate (c : Cat) (bank : Bank)
  /-- `SWAP` (R272). -/
  | swap (c : Cat)
  /-- `FIX_CRC` (R274). -/
  | fixCrc (c : Cat) (bank : Bank) (size : Word)
  /-- `COMMIT` (R276). -/
  | commit (c : Cat)
  /-- `CRC_REGION` (40_crc_engine.md R150). -/
  | crcRegion (c : Cat) (bank : Bank) (size : Word)
  /-- `CRC_BUF` (R151): the size and the buffer supplied beside the word. -/
  | crcBuf (size : Word) (buffer : List Byte)
  /-- `SET_ACTIVE` (44_descriptor_validator.md R279). -/
  | setActive (c : Cat) (sel : Active)
  /-- `FRAME_IN` (43_session_driver.md R230): its operands are the registers FB and FLEN. -/
  | frameIn
  /-- `EMPTY` (R232): `FRAME_IN` with FLEN = 0. -/
  | empty
  /-- `CRC_INIT` (40_crc_engine.md R142). -/
  | crcInit
  /-- `CRC_UPDATE(b)` (R143). -/
  | crcUpdate (b : Byte)
  /-- `CRC_FINAL` (R144). -/
  | crcFinal
  deriving DecidableEq, Repr

/-- What an agent presents to the block (00_scope.md R7), one at a time (60_exceptions.md R311). -/
inductive Event where
  /-- The host presents a frame: the bytes the transport delivered (30_encoding.md R100, R127). -/
  | frame (bytes : List Byte)
  /-- The caller issues an operation word, with the buffer of `CRC_BUF` (R125). -/
  | operation (word : BitVec 48) (buffer : List Byte)
  /-- The host removes a frame from the front of TXQ (10_state.md R23). -/
  | takeFrame
  /-- The device is reset or loses power between two steps (70_reset_and_hazards.md R340, R345). -/
  | powerCycle
  deriving DecidableEq, Repr

end Sys2Proof
end

