-- ==== Sys2Proof/Config.lean ====
section
/-! DEFINITION. The configuration record of 00_scope.md R9 (what an implementation fixes) and the free
values of 93_implementation_defined.md U3, U4 and U5. The default record is `Config.default` of
Sys2Proof/Decode.lean. -/

namespace Sys2Proof

/-- `PERSIST_ENDIAN` (00_scope.md R9, 20_memory.md R71). -/
inductive Endian where
  | little
  | big
  deriving DecidableEq, Repr

/-- `ERROR_REPLY` (00_scope.md R9, 43_session_driver.md R236). -/
inductive ErrorReply where
  | none
  | always
  deriving DecidableEq, Repr

/-- `CMD_CODE` (00_scope.md R9, 30_encoding.md R115): one 16-bit code per command. -/
structure CmdCodes where
  boot : Half
  reset : Half
  swap : Half
  bootInfo : Half
  powerOn : Half
  powerOff : Half
  endTransfer : Half
  spiEnd : Half
  triggerWatchdog : Half
  eraseSpi : Half
  setBank0 : Half
  setBank1 : Half
  crc : Half
  deriving DecidableEq, Repr

/-- `CMD_CODE[k]` (30_encoding.md R115). -/
def CmdCodes.of (t : CmdCodes) : Cmd → Half
  | .boot => t.boot
  | .reset => t.reset
  | .swap => t.swap
  | .bootInfo => t.bootInfo
  | .powerOn => t.powerOn
  | .powerOff => t.powerOff
  | .endTransfer => t.endTransfer
  | .spiEnd => t.spiEnd
  | .triggerWatchdog => t.triggerWatchdog
  | .eraseSpi => t.eraseSpi
  | .setBank0 => t.setBank0
  | .setBank1 => t.setBank1
  | .crc => t.crc

/-- `ERR_CODE` (00_scope.md R9, 30_encoding.md R113): one 16-bit code per error class. -/
structure ErrCodes where
  framing : Half
  sequence : Half
  crcMismatch : Half
  storage : Half
  transport : Half
  partitionCorrupt : Half
  state : Half
  deriving DecidableEq, Repr

/-- `ERR_CODE[k]` (30_encoding.md R113). -/
def ErrCodes.of (t : ErrCodes) : ErrClass → Half
  | .framing => t.framing
  | .sequence => t.sequence
  | .crcMismatch => t.crcMismatch
  | .storage => t.storage
  | .transport => t.transport
  | .partitionCorrupt => t.partitionCorrupt
  | .state => t.state

/-- `ACTIVE_ENC` (00_scope.md R9): the persisted number of each selector value. -/
structure ActiveEnc where
  none : Nat
  bank0 : Nat
  bank1 : Nat
  deriving DecidableEq, Repr

/-- `ACTIVE_ENC[a]` (00_scope.md R9, 20_memory.md R80). -/
def ActiveEnc.of (t : ActiveEnc) : Active → Nat
  | .none => t.none
  | .bank0 => t.bank0
  | .bank1 => t.bank1

/-- The configured place of one bank: `*_BANK_START[i]` and `*_BANK_PART_SIZE[i]` (00_scope.md R9). -/
structure BankGeometry where
  start : Word
  size : Word
  deriving DecidableEq, Repr

/-- The configuration record (00_scope.md R9). The two oracles of R9 are not here: they are the tapes
`storageFates` and `txFaults` of State. -/
structure Config where
  /-- `CRC_POLY` -/
  crcPoly : Word
  /-- `CRC_INIT` -/
  crcInit : Word
  /-- `CRC_REFIN` -/
  crcRefIn : Bool
  /-- `CRC_REFOUT` -/
  crcRefOut : Bool
  /-- `CRC_XOROUT` -/
  crcXorOut : Word
  /-- `CMD_CODE` -/
  cmdCodes : CmdCodes
  /-- `CMD_MIN` -/
  cmdMin : Half
  /-- `CMD_MAX` -/
  cmdMax : Half
  /-- `ERR_CODE` -/
  errCodes : ErrCodes
  /-- `ERR_MIN` -/
  errMin : Half
  /-- `ERR_MAX` -/
  errMax : Half
  /-- `TARGET_NAME` (30_encoding.md R112): names without their NUL -/
  targetNames : List (List Byte × Target)
  /-- `PERSIST_ENDIAN` -/
  persistEndian : Endian
  /-- `ACTIVE_BYTES` -/
  activeBytes : Nat
  /-- `ACTIVE_ENC` -/
  activeEnc : ActiveEnc
  /-- `ERASED_BYTE` -/
  erasedByte : Byte
  /-- `APP_BANK_START[0]`, `APP_BANK_PART_SIZE[0]` -/
  appBank0 : BankGeometry
  /-- `APP_BANK_START[1]`, `APP_BANK_PART_SIZE[1]` -/
  appBank1 : BankGeometry
  /-- `AUX_BANK_START[0]`, `AUX_BANK_PART_SIZE[0]` -/
  auxBank0 : BankGeometry
  /-- `AUX_BANK_START[1]`, `AUX_BANK_PART_SIZE[1]` -/
  auxBank1 : BankGeometry
  /-- `APP_CTX_PRIMARY_ADDR` -/
  appCtxPrimary : Word
  /-- `APP_CTX_BACKUP_ADDR` -/
  appCtxBackup : Word
  /-- `AUX_CTX_PRIMARY_ADDR` -/
  auxCtxPrimary : Word
  /-- `AUX_CTX_BACKUP_ADDR` -/
  auxCtxBackup : Word
  /-- `APP_DEV` -/
  appDev : Device
  /-- `AUX_DEV` -/
  auxDev : Device
  /-- `SECTOR_SIZE[FLASH]` -/
  flashSector : Word
  /-- `SECTOR_SIZE[SPI]` -/
  spiSector : Word
  /-- `AUX_ERASE_ON_OPEN` -/
  auxEraseOnOpen : Bool
  /-- `AUX_SPAN_IS_BYTES_WRITTEN` -/
  auxSpanIsBytesWritten : Bool
  /-- `ERROR_REPLY` -/
  errorReply : ErrorReply
  deriving DecidableEq, Repr

/-- `dev(c)`: the device that holds category `c` (00_scope.md R9, 20_memory.md R60). -/
def Config.dev (cfg : Config) : Cat → Device
  | .app => cfg.appDev
  | .aux => cfg.auxDev

/-- `SECTOR_SIZE[dev]` (00_scope.md R9). -/
def Config.sectorSize (cfg : Config) : Device → Word
  | .flash => cfg.flashSector
  | .spi => cfg.spiSector

/-- `c_BANK_START[i]` and `c_BANK_PART_SIZE[i]` (00_scope.md R9). -/
def Config.geometry (cfg : Config) : Cat → Bank → BankGeometry
  | .app, .b0 => cfg.appBank0
  | .app, .b1 => cfg.appBank1
  | .aux, .b0 => cfg.auxBank0
  | .aux, .b1 => cfg.auxBank1

/-- FREE VALUE (20_memory.md R68, R75; 70_reset_and_hazards.md R345; 93 U3, U4, U5; a byte a
CRC_BUF buffer is short of, log 17): the byte the `n`-th draw gives. Nothing constrains it; State's `freeCtr`
counts the draws (log 6). -/
opaque Config.freeByte : Nat → Byte

end Sys2Proof
end

