-- ==== Sys2Proof/WellFormed.lean ====
section
/-! DEFINITION. When a configuration record satisfies 00_scope.md R10 (and the address-space bound of
20_memory.md R61), and when an instruction's operands are values its encoding can carry. -/

namespace Sys2Proof

/-- One region of a device that R10 wants disjoint from the others: a bank or a context-copy sector. -/
structure Region where
  dev : Device
  start : Nat
  size : Nat
  deriving DecidableEq, Repr

/-- Two regions of one device do not overlap (00_scope.md R10): one ends where the other begins or before. A
region of size 0 strictly inside another one counts as overlapping it, though the two share no byte (DESIGN
CHOICE, safe, log 34). -/
def Region.disjoint (x y : Region) : Bool :=
  x.dev != y.dev || x.start + x.size ≤ y.start || y.start + y.size ≤ x.start

/-- The eight regions of 00_scope.md R10: four banks and four context-copy sectors. -/
def Config.regions (cfg : Config) : List Region :=
  let bank (c : Cat) (b : Bank) : Region :=
    ⟨cfg.dev c, (cfg.geometry c b).start.toNat, (cfg.geometry c b).size.toNat⟩
  let copy (c : Cat) (addr : Word) : Region :=
    ⟨cfg.dev c, addr.toNat, (cfg.sectorSize (cfg.dev c)).toNat⟩
  [bank .app .b0, bank .app .b1, bank .aux .b0, bank .aux .b1,
   copy .app cfg.appCtxPrimary, copy .app cfg.appCtxBackup,
   copy .aux cfg.auxCtxPrimary, copy .aux cfg.auxCtxBackup]

/-- "the eight bank regions and context-copy sectors of one device do not overlap" (R10). -/
abbrev Config.regionsDisjoint (cfg : Config) : Prop :=
  cfg.regions.Pairwise fun x y => x.disjoint y = true

/-- Every region fits the 32-bit address space (20_memory.md R61, DEDUCED, safe). -/
abbrev Config.regionsFit (cfg : Config) : Prop :=
  ∀ r ∈ cfg.regions, r.start + r.size ≤ 2 ^ 32

/-- "primary and backup addresses of one category are distinct" (R10). -/
abbrev Config.copiesDistinct (cfg : Config) : Prop :=
  cfg.appCtxPrimary ≠ cfg.appCtxBackup ∧ cfg.auxCtxPrimary ≠ cfg.auxCtxBackup

/-- "every context-copy address is a multiple of its device's SECTOR_SIZE" (R10). -/
abbrev Config.copiesAligned (cfg : Config) : Prop :=
  cfg.appCtxPrimary.toNat % (cfg.sectorSize cfg.appDev).toNat = 0 ∧
  cfg.appCtxBackup.toNat % (cfg.sectorSize cfg.appDev).toNat = 0 ∧
  cfg.auxCtxPrimary.toNat % (cfg.sectorSize cfg.auxDev).toNat = 0 ∧
  cfg.auxCtxBackup.toNat % (cfg.sectorSize cfg.auxDev).toNat = 0

/-- "`SECTOR_SIZE[APP_DEV] >= 40` and `SECTOR_SIZE[AUX_DEV] >= 56`" (R10). -/
abbrev Config.sectorsHoldRecords (cfg : Config) : Prop :=
  40 ≤ (cfg.sectorSize cfg.appDev).toNat ∧ 56 ≤ (cfg.sectorSize cfg.auxDev).toNat

/-- A sector holds a record of any ACTIVE_BYTES (20_memory.md R80, R82; DEDUCED, safe, log 25); with 4 bytes
this is R10's own constraint. -/
abbrev Config.recordsFit (cfg : Config) : Prop :=
  36 + cfg.activeBytes ≤ (cfg.sectorSize cfg.appDev).toNat ∧
  52 + cfg.activeBytes ≤ (cfg.sectorSize cfg.auxDev).toNat

/-- "CMD_CODE is injective and its image is exactly [CMD_MIN, CMD_MAX]" (R10). -/
abbrev Config.commandCodesOk (cfg : Config) : Prop :=
  (Cmd.all.map cfg.cmdCodes.of).Nodup ∧
  (∀ k ∈ Cmd.all, cfg.cmdMin ≤ cfg.cmdCodes.of k ∧ cfg.cmdCodes.of k ≤ cfg.cmdMax) ∧
  cfg.cmdMax.toNat + 1 = cfg.cmdMin.toNat + Cmd.all.length

/-- "the names of TARGET_NAME are pairwise different, contain no NUL and are at most 7 bytes long" (R10). -/
abbrev Config.namesOk (cfg : Config) : Prop :=
  (cfg.targetNames.map Prod.fst).Nodup ∧
  ∀ p ∈ cfg.targetNames, (0 : Byte) ∉ p.1 ∧ p.1.length ≤ 7

/-- The three persisted selector numbers are different and fit `ACTIVE_BYTES` (R9, DEDUCED, safe). -/
abbrev Config.activeEncOk (cfg : Config) : Prop :=
  [cfg.activeEnc.none, cfg.activeEnc.bank0, cfg.activeEnc.bank1].Nodup ∧
  ∀ v ∈ [cfg.activeEnc.none, cfg.activeEnc.bank0, cfg.activeEnc.bank1], v < 256 ^ cfg.activeBytes

/-- The constraints of R10, "all of which a model should check when it builds the record": `State.build` is
given no other record (93 U19). -/
abbrev Config.buildable (cfg : Config) : Prop :=
  cfg.regionsDisjoint ∧ cfg.copiesDistinct ∧ cfg.copiesAligned ∧ cfg.sectorsHoldRecords ∧
  cfg.commandCodesOk ∧ cfg.namesOk

/-- The constraints of R10, with three that the spec has elsewhere: every region in the address space
(20_memory.md R61), sectors that hold a record of any ACTIVE_BYTES (20_memory.md R82), and selector numbers that
can be told apart (00_scope.md R9) (log 31). -/
abbrev Config.wf (cfg : Config) : Prop :=
  cfg.buildable ∧ cfg.regionsFit ∧ cfg.recordsFit ∧ cfg.activeEncOk

/-- A name operand is at most 7 bytes and holds no NUL (30_encoding.md R108). -/
abbrev nameOk (name : List Byte) : Prop := name.length ≤ 7 ∧ (0 : Byte) ∉ name

/-- A Command frame that stands for no row below it: its code is no command's, or it is the Crc command
with fewer than four bytes after the code (30_encoding.md R110, R115). -/
abbrev bareCommand (cfg : Config) (code : Half) (tail : List Byte) : Prop :=
  ∀ k ∈ Cmd.all, cfg.cmdCodes.of k = code → k = .crc ∧ tail.length < 4

/-- The operands of an instruction are values its encoding carries (30_encoding.md R102 to R109, R125). -/
def Instr.wf (cfg : Config) : Instr → Prop
  | .rrq _ name => nameOk name
  | .wrq name => nameOk name
  | .data _ payload => payload.length ≤ 512
  | .cmd code tail => tail.length ≤ 512 ∧ bareCommand cfg code tail
  | .crcBuf size buffer => buffer.length = size.toNat
  | .ack _ | .error _ | .debug => True
  | .cmdBoot | .cmdReset | .cmdSwap | .cmdBootInfo | .cmdPowerOn | .cmdPowerOff | .cmdEnd
  | .cmdSpiEnd | .cmdTriggerWatchdog | .cmdEraseSpi | .cmdSetBank0 | .cmdSetBank1 | .cmdCrc _ => True
  | .sessionReset | .load _ | .validate _ _ | .swap _ | .fixCrc _ _ _ | .commit _
  | .crcRegion _ _ _ | .setActive _ _ => True
  | .frameIn | .empty | .crcInit | .crcUpdate _ | .crcFinal => True

end Sys2Proof
end

