-- ==== Sys2Proof/Decode.lean ====
section
/-! DEFINITION. The constants of 00_scope.md R8, the byte-order functions of R12, the default
configuration of R9, the decoder (30_encoding.md R100 to R118, R125, R126) and after it the encoder,
both written from the same tables. -/

namespace Sys2Proof

/-! ## The constants DOC fixes (00_scope.md R8) -/

/-- `MAX_FRAME` -/
def maxFrame : Nat := 516
/-- `DATA_HEADER` -/
def dataHeader : Nat := 4
/-- `BLOCK_MAX` -/
def blockMax : Nat := 512
/-- `ACK_LEN` -/
def ackLen : Nat := 4
/-- `ERROR_MAX_FRAME` -/
def errorMaxFrame : Nat := 128
/-- `NAME_BUDGET` -/
def nameBudget : Nat := 8
/-- `SENTINEL_BYTE` -/
def sentinelByte : Byte := 0x00#8
/-- `SENTINEL_CRC` -/
def sentinelCrc : Word := 0xDEADBEEF#32

/-- `OP_RRQ` to `OP_DEBUG`: the opcode byte of each kind (R8, 30_encoding.md R101). -/
def opcodeOf : Kind → Byte
  | .readRequest => 1#8
  | .writeRequest => 2#8
  | .data => 3#8
  | .ack => 4#8
  | .error => 5#8
  | .command => 6#8
  | .debug => 7#8

/-! ## Bytes and numbers (00_scope.md R12) -/

/-- `B[i]`; every rule that reads it first establishes that `i` lies inside `B` (10_state.md R21). -/
def byteAt (B : List Byte) (i : Nat) : Byte := B.getD i 0#8

/-- `B[a..b)` (R12). -/
def slice (B : List Byte) (a b : Nat) : List Byte := (B.take b).drop a

/-- `be16(B, i)` (R12). -/
def be16 (B : List Byte) (i : Nat) : Half := byteAt B i ++ byteAt B (i + 1)

/-- `be32(B, i)` (R12). -/
def be32 (B : List Byte) (i : Nat) : Word := be16 B i ++ be16 B (i + 2)

/-- `enc_be16(v)` (R12). -/
def encBe16 (v : Half) : List Byte := [v.extractLsb' 8 8, v.extractLsb' 0 8]

/-- `enc_be32(v)` (R12). -/
def encBe32 (v : Word) : List Byte := encBe16 (v.extractLsb' 16 16) ++ encBe16 (v.extractLsb' 0 16)

/-- The `n` low bytes of a number, least significant first (`enc_le32` of R12 when `n` is 4). -/
def leBytes : Nat → Nat → List Byte
  | 0, _ => []
  | n + 1, v => BitVec.ofNat 8 v :: leBytes n (v / 256)

/-- The number whose bytes, least significant first, are given (`le32` of R12 on four bytes). -/
def leValue : List Byte → Nat
  | [] => 0
  | b :: bs => b.toNat + 256 * leValue bs

/-- An unsigned number of `n` bytes in the persisted byte order (20_memory.md R71 (2)). -/
def encUint (e : Endian) (n v : Nat) : List Byte :=
  match e with
  | .little => leBytes n v
  | .big => (leBytes n v).reverse

/-- The number a persisted field holds (20_memory.md R71 (2)). -/
def decUint (e : Endian) (bs : List Byte) : Nat :=
  match e with
  | .little => leValue bs
  | .big => leValue bs.reverse

/-- `cstr(B, i, budget, len)`; `none` is `NoName` (30_encoding.md R108). -/
def cstr (B : List Byte) (i budget len : Nat) : Option (List Byte) :=
  let window := slice B i (min len (i + budget))
  if 0#8 ∈ window then some (window.takeWhile (· != 0#8)) else none

/-! ## The default configuration (00_scope.md R9) -/

/-- The default `CMD_CODE` (30_encoding.md R115). -/
def Config.defaultCmdCodes : CmdCodes :=
  { boot := 1, reset := 2, swap := 3, bootInfo := 4, powerOn := 5, powerOff := 6, endTransfer := 7
    spiEnd := 8, triggerWatchdog := 9, eraseSpi := 10, setBank0 := 11, setBank1 := 12, crc := 13 }

/-- The default `ERR_CODE` (30_encoding.md R113). -/
def Config.defaultErrCodes : ErrCodes :=
  { framing := 1, sequence := 2, crcMismatch := 3, storage := 4, transport := 5
    partitionCorrupt := 6, state := 7 }

/-- The default `TARGET_NAME` (30_encoding.md R112): approm0, approm1, spi0, spi1 in ASCII. -/
def Config.defaultTargetNames : List (List Byte × Target) :=
  [([0x61, 0x70, 0x70, 0x72, 0x6F, 0x6D, 0x30], .appBank0),
   ([0x61, 0x70, 0x70, 0x72, 0x6F, 0x6D, 0x31], .appBank1),
   ([0x73, 0x70, 0x69, 0x30], .auxBank0),
   ([0x73, 0x70, 0x69, 0x31], .auxBank1)]

/-- The defaults of 00_scope.md R9. DESIGN CHOICE, unsafe (log 1): R9 leaves the geometry OPEN; the
values here are fixture T of 95_test_vectors.md, the only ones the spec writes down, and no statement
rests on them. -/
def Config.default : Config :=
  { crcPoly := 0x04C11DB7
    crcInit := 0xFFFFFFFF
    crcRefIn := true
    crcRefOut := true
    crcXorOut := 0xFFFFFFFF
    cmdCodes := Config.defaultCmdCodes
    cmdMin := 1
    cmdMax := 13
    errCodes := Config.defaultErrCodes
    errMin := 1
    errMax := 7
    targetNames := Config.defaultTargetNames
    persistEndian := .little
    activeBytes := 4
    activeEnc := { none := 0, bank0 := 1, bank1 := 2 }
    erasedByte := 0xFF
    appBank0 := { start := 0x1000, size := 2048 }
    appBank1 := { start := 0x2000, size := 1061 }
    auxBank0 := { start := 0x1000, size := 4096 }
    auxBank1 := { start := 0x2000, size := 4096 }
    appCtxPrimary := 0x0000
    appCtxBackup := 0x0040
    auxCtxPrimary := 0x0000
    auxCtxBackup := 0x0040
    appDev := .flash
    auxDev := .spi
    flashSector := 64
    spiSector := 64
    auxEraseOnOpen := true
    auxSpanIsBytesWritten := true
    errorReply := .none }

/-! ## Decoding a frame (30_encoding.md R118, 41_frame_parser.md R161 to R163) -/

/-- A frame with its kind selected and its fields taken apart (10_state.md R22). -/
inductive Frame where
  | rrq (length : Word) (name : List Byte)
  | wrq (name : List Byte)
  | data (block : Half) (payload : List Byte)
  | ack (block : Half)
  | error (code : Half)
  | cmd (code : Half) (tail : List Byte)
  | debug
  deriving DecidableEq, Repr

/-- `KIND` of a decoded frame (41_frame_parser.md R163). -/
def Frame.kind : Frame → Kind
  | .rrq _ _ => .readRequest
  | .wrq _ => .writeRequest
  | .data _ _ => .data
  | .ack _ => .ack
  | .error _ => .error
  | .cmd _ _ => .command
  | .debug => .debug

/-- Why the bytes of a frame have no fields: the tests of 60_exceptions.md R302, orders 3, 4, 5, 7 and
the name terminator of order 8. -/
inductive FrameError where
  /-- Order 3: FLEN below 2 or above 516 (41_frame_parser.md R161). -/
  | size
  /-- Order 4: byte 0 is not 0 (R162). -/
  | sentinel
  /-- Order 5: byte 1 is not 1 to 7 (R163). -/
  | opcode
  /-- Order 7: FLEN outside the bounds of the kind (30_encoding.md R110). -/
  | kindSize (k : Kind)
  /-- Order 8: no NUL inside the name budget (R108, R116 (g)). -/
  | noName (k : Kind)
  deriving DecidableEq, Repr

/-- Opcode selection (41_frame_parser.md R163): bytes 1 to 7. -/
def kindOf (op : Byte) : Option Kind :=
  match op.toNat with
  | 1 => some .readRequest
  | 2 => some .writeRequest
  | 3 => some .data
  | 4 => some .ack
  | 5 => some .error
  | 6 => some .command
  | 7 => some .debug
  | _ => none

/-- The shortest and the longest frame of a kind (30_encoding.md R110). -/
def kindBounds : Kind → Nat × Nat
  | .readRequest => (7, maxFrame)
  | .writeRequest => (3, maxFrame)
  | .data => (dataHeader, maxFrame)
  | .ack => (ackLen, ackLen)
  | .error => (4, errorMaxFrame)
  | .command => (4, maxFrame)
  | .debug => (2, maxFrame)

/-- The fields of a frame of a kind whose length is in bounds (30_encoding.md R102 to R109). -/
def decodeFields (k : Kind) (B : List Byte) (len : Nat) : Except FrameError Frame :=
  match k with
  | .readRequest =>
    match cstr B 6 nameBudget len with
    | some name => .ok (.rrq (be32 B 2) name)
    | none => .error (.noName k)
  | .writeRequest =>
    match cstr B 2 nameBudget len with
    | some name => .ok (.wrq name)
    | none => .error (.noName k)
  | .data => .ok (.data (be16 B 2) (slice B 4 len))
  | .ack => .ok (.ack (be16 B 2))
  | .error => .ok (.error (be16 B 2))
  | .command => .ok (.cmd (be16 B 2) (slice B 4 len))
  | .debug => .ok .debug

/-- The front end's tests in their order, then the fields (30_encoding.md R118; 41_frame_parser.md
R161, R162, R163; 60_exceptions.md R302). The direction gate stands between `opcode` and the tests of
the kind: the errors of a kind carry it so that the gate can be applied first. -/
def decodeFrame (B : List Byte) (len : Nat) : Except FrameError Frame :=
  if len < 2 ∨ maxFrame < len then .error .size
  else if byteAt B 0 ≠ sentinelByte then .error .sentinel
  else match kindOf (byteAt B 1) with
    | none => .error .opcode
    | some k =>
      if len < (kindBounds k).1 ∨ (kindBounds k).2 < len then .error (.kindSize k)
      else decodeFields k B len

/-- The command a code selects (42_command_dispatch.md R200): none outside `[CMD_MIN, CMD_MAX]`. -/
def commandOf (cfg : Config) (code : Half) : Option Cmd :=
  if code < cfg.cmdMin ∨ cfg.cmdMax < code then none
  else Cmd.all.find? fun k => cfg.cmdCodes.of k == code

/-- The row of a Command frame (30_encoding.md R115, R118): one of the thirteen rows under opcode 6, or
`CMD` itself where the code selects none, or selects Crc and the frame is shorter than 8 bytes. -/
def Instr.ofCommand (cfg : Config) (code : Half) (tail : List Byte) : Instr :=
  match commandOf cfg code with
  | some .boot => .cmdBoot
  | some .reset => .cmdReset
  | some .swap => .cmdSwap
  | some .bootInfo => .cmdBootInfo
  | some .powerOn => .cmdPowerOn
  | some .powerOff => .cmdPowerOff
  | some .endTransfer => .cmdEnd
  | some .spiEnd => .cmdSpiEnd
  | some .triggerWatchdog => .cmdTriggerWatchdog
  | some .eraseSpi => .cmdEraseSpi
  | some .setBank0 => .cmdSetBank0
  | some .setBank1 => .cmdSetBank1
  | some .crc => if tail.length < 4 then .cmd code tail else .cmdCrc (be32 tail 0)
  | none => .cmd code tail

/-- The row a decoded frame stands for (30_encoding.md R118). -/
def Instr.ofFrame (cfg : Config) : Frame → Instr
  | .rrq length name => .rrq length name
  | .wrq name => .wrq name
  | .data block payload => .data block payload
  | .ack block => .ack block
  | .error code => .error code
  | .cmd code tail => Instr.ofCommand cfg code tail
  | .debug => .debug

/-! ## Decoding an operation word (30_encoding.md R125, R126) -/

/-- The fields of an operation word (R125). -/
structure OpFields where
  code : Byte
  reserved : BitVec 4
  sel : BitVec 2
  cat : Bool
  bank : Bool
  size : Word
  deriving DecidableEq, Repr

/-- Bits 47:40, 39:36, 35:34, 33, 32 and 31:0 of the word (R125). -/
def opFields (w : BitVec 48) : OpFields :=
  { code := w.extractLsb' 40 8
    reserved := w.extractLsb' 36 4
    sel := w.extractLsb' 34 2
    cat := w.getLsbD 33
    bank := w.getLsbD 32
    size := w.extractLsb' 0 32 }

/-- The `cat` bit: 0 = App, 1 = Aux (R125). -/
def catOf (b : Bool) : Cat := if b then .aux else .app

/-- The `bank` bit (R125). -/
def bankOf (b : Bool) : Bank := if b then .b1 else .b0

/-- The `sel` field (R125, opcode_table.json row SET_ACTIVE): 3 is refused. -/
def selOf (v : BitVec 2) : Option Active :=
  match v.toNat with
  | 0 => some .none
  | 1 => some .bank0
  | 2 => some .bank1
  | _ => none

/-- Why an event is no instruction. -/
inductive Reject where
  /-- The frame has no fields. -/
  | frame (e : FrameError)
  /-- The operation word is outside the table (30_encoding.md R126). -/
  | badOperation
  /-- The event is not addressed to the block's instruction ports (a take from TXQ, a reset). -/
  | notAnInstruction
  deriving DecidableEq, Repr

/-- The operation a word stands for; "a non-zero unused field, or sel = 3, is refused" (R126). -/
def decodeOperation (w : BitVec 48) (buffer : List Byte) : Except Reject Instr :=
  let f := opFields w
  let c := catOf f.cat
  let b := bankOf f.bank
  let noSel := f.sel = 0
  let noCat := f.cat = false
  let noBank := f.bank = false
  let noSize := f.size = 0
  if f.reserved ≠ 0 then .error .badOperation
  else match f.code.toNat with
    | 1 => if noSel ∧ noCat ∧ noBank ∧ noSize then .ok .sessionReset else .error .badOperation
    | 2 => if noSel ∧ noBank ∧ noSize then .ok (.load c) else .error .badOperation
    | 3 => if noSel ∧ noSize then .ok (.validate c b) else .error .badOperation
    | 4 => if noSel ∧ noBank ∧ noSize then .ok (.swap c) else .error .badOperation
    | 5 => if noSel then .ok (.fixCrc c b f.size) else .error .badOperation
    | 6 => if noSel ∧ noBank ∧ noSize then .ok (.commit c) else .error .badOperation
    | 7 => if noSel then .ok (.crcRegion c b f.size) else .error .badOperation
    | 8 => if noSel ∧ noCat ∧ noBank then .ok (.crcBuf f.size buffer) else .error .badOperation
    | 9 =>
      match selOf f.sel with
      | some a => if noBank ∧ noSize then .ok (.setActive c a) else .error .badOperation
      | none => .error .badOperation
    | _ => .error .badOperation

/-- The decoder: total on every event, rejecting by name. A frame of length 0 is the empty read
(43_session_driver.md R232). -/
def decode (cfg : Config) : Event → Except Reject Instr
  | .frame bytes =>
    if bytes.length = 0 then .ok .empty
    else match decodeFrame bytes bytes.length with
      | .ok f => .ok (Instr.ofFrame cfg f)
      | .error e => .error (.frame e)
  | .operation w buffer => decodeOperation w buffer
  | .takeFrame => .error .notAnInstruction
  | .powerCycle => .error .notAnInstruction

/-! ## The opcode table's words (spec/opcode_table.json) -/

/-- The shortest legal frame of the row a frame's first bytes belong to (30_encoding.md R110, R115). -/
def rowLength (B : List Byte) : Nat :=
  match kindOf (byteAt B 1) with
  | some .command => if be16 B 2 = Config.defaultCmdCodes.crc then 8 else 4
  | some k => (kindBounds k).1
  | none => B.length

/-- The event a row's word stands for (log 2). A word of 48 bits is an operation word; the row EMPTY has
one bit, 0, its FLEN; any other word is the first bytes of a frame, the most significant byte of the
number first ("byte 0 is the high byte of the pattern"), followed by zero bytes up to the shortest legal
frame of its row. The buffer of `CRC_BUF` is zero bytes. -/
def tableEvent (nbits w : Nat) : Event :=
  if nbits = 48 then
    .operation (BitVec.ofNat 48 w) (List.replicate (opFields (BitVec.ofNat 48 w)).size.toNat 0#8)
  else if nbits ≤ 8 ∧ w = 0 then .frame []
  else
    let B := (leBytes (nbits / 8) w).reverse
    .frame (B ++ List.replicate (rowLength B - B.length) 0#8)

/-- The instruction the decoder reads from a row's word, under the default tables. -/
def decodeTableWord (nbits w : Nat) : Option Instr :=
  match decode Config.default (tableEvent nbits w) with
  | .ok i => some i
  | .error _ => none

/-! ## The encoder -/

/-- The bytes of a frame, from the tables of 30_encoding.md R102 to R109; the frames the block emits
are built with it too (R114). -/
def Frame.bytes : Frame → List Byte
  | .rrq length name => [sentinelByte, opcodeOf .readRequest] ++ encBe32 length ++ name ++ [0#8]
  | .wrq name => [sentinelByte, opcodeOf .writeRequest] ++ name ++ [0#8]
  | .data block payload => [sentinelByte, opcodeOf .data] ++ encBe16 block ++ payload
  | .ack block => [sentinelByte, opcodeOf .ack] ++ encBe16 block
  | .error code => [sentinelByte, opcodeOf .error] ++ encBe16 code
  | .cmd code tail => [sentinelByte, opcodeOf .command] ++ encBe16 code ++ tail
  | .debug => [sentinelByte, opcodeOf .debug]

/-- The operation word of the fields (30_encoding.md R125). -/
def opWord (f : OpFields) : BitVec 48 :=
  f.code ++ f.reserved ++ f.sel ++ BitVec.ofBool f.cat ++ BitVec.ofBool f.bank ++ f.size

/-- The `cat` bit of a category (R125). -/
def catBit : Cat → Bool
  | .app => false
  | .aux => true

/-- The `bank` bit of a bank (R125). -/
def bankBit : Bank → Bool
  | .b0 => false
  | .b1 => true

/-- The `sel` field of a selector (R125). -/
def selBits : Active → BitVec 2
  | .none => 0
  | .bank0 => 1
  | .bank1 => 2

/-- An operation event with the fields given and the rest zero (R125). -/
def opEvent (code : Byte) (sel : BitVec 2) (cat bank : Bool) (size : Word) : Event :=
  .operation (opWord { code := code, reserved := 0, sel := sel, cat := cat, bank := bank, size := size }) []

/-- A Command frame without data (30_encoding.md R115). -/
def commandEvent (code : Half) : Event := .frame (Frame.bytes (.cmd code []))

/-- The event that presents an instruction, with no ignored byte added. FRAME_IN has no encoding beyond
the frame itself (R127) and the micro-operations are reachable from no port, so these have none. -/
def encode (cfg : Config) : Instr → Option Event
  | .rrq length name => some (.frame (Frame.bytes (.rrq length name)))
  | .wrq name => some (.frame (Frame.bytes (.wrq name)))
  | .data block payload => some (.frame (Frame.bytes (.data block payload)))
  | .ack block => some (.frame (Frame.bytes (.ack block)))
  | .error code => some (.frame (Frame.bytes (.error code)))
  | .cmd code tail => some (.frame (Frame.bytes (.cmd code tail)))
  | .debug => some (.frame (Frame.bytes .debug))
  | .cmdBoot => some (commandEvent cfg.cmdCodes.boot)
  | .cmdReset => some (commandEvent cfg.cmdCodes.reset)
  | .cmdSwap => some (commandEvent cfg.cmdCodes.swap)
  | .cmdBootInfo => some (commandEvent cfg.cmdCodes.bootInfo)
  | .cmdPowerOn => some (commandEvent cfg.cmdCodes.powerOn)
  | .cmdPowerOff => some (commandEvent cfg.cmdCodes.powerOff)
  | .cmdEnd => some (commandEvent cfg.cmdCodes.endTransfer)
  | .cmdSpiEnd => some (commandEvent cfg.cmdCodes.spiEnd)
  | .cmdTriggerWatchdog => some (commandEvent cfg.cmdCodes.triggerWatchdog)
  | .cmdEraseSpi => some (commandEvent cfg.cmdCodes.eraseSpi)
  | .cmdSetBank0 => some (commandEvent cfg.cmdCodes.setBank0)
  | .cmdSetBank1 => some (commandEvent cfg.cmdCodes.setBank1)
  | .cmdCrc value => some (.frame (Frame.bytes (.cmd cfg.cmdCodes.crc (encBe32 value))))
  | .sessionReset => some (opEvent 1 0 false false 0)
  | .load c => some (opEvent 2 0 (catBit c) false 0)
  | .validate c b => some (opEvent 3 0 (catBit c) (bankBit b) 0)
  | .swap c => some (opEvent 4 0 (catBit c) false 0)
  | .fixCrc c b size => some (opEvent 5 0 (catBit c) (bankBit b) size)
  | .commit c => some (opEvent 6 0 (catBit c) false 0)
  | .crcRegion c b size => some (opEvent 7 0 (catBit c) (bankBit b) size)
  | .crcBuf size buffer =>
    some (.operation (opWord { code := 8, reserved := 0, sel := 0, cat := false, bank := false, size := size })
      buffer)
  | .setActive c a => some (opEvent 9 (selBits a) (catBit c) false 0)
  | .empty => some (.frame [])
  | .frameIn => none
  | .crcInit => none
  | .crcUpdate _ => none
  | .crcFinal => none

end Sys2Proof
end

