-- ==== Sys2Proof/Machine/State.lean ====
section
/-! DEFINITION. The state of the CFD block (spec/10_state.md) with the configuration record, the two
storage devices and the events its agents present, the reasons a step can stop, and the state after
reset (10_state.md R45). -/

namespace Sys2Proof.Machine

/-! ## Memory cells -/

/-- A storage device's bytes as a list of cells in canonical form: addresses strictly rising, no cell
equal to what an unlisted address reads as (20_memory.md R60). -/
abbrev Memory := List Host.Cell

/-! ## Outcomes and errors (10_state.md R30, 60_exceptions.md R301) -/

/-- Causes of class `Framing` (R301). -/
inductive FramingCause where
  | size
  | sentinel
  | opcode
  | name
  | unknownTarget
  | errorCode
  | commandCode
  deriving DecidableEq, Repr

/-- Causes of class `Sequence` (R301). -/
inductive SequenceCause where
  | blockMismatch
  | ackMismatch
  | blockOverflow
  deriving DecidableEq, Repr

/-- Causes of class `Storage` (R301). -/
inductive StorageCause where
  | init
  | erase
  | flush
  | write
  | read
  deriving DecidableEq, Repr

/-- Causes of class `Transport` (R301). -/
inductive TransportCause where
  | emptyRead
  | write
  deriving DecidableEq, Repr

/-- Causes of class `State` (R301). -/
inductive StateCause where
  | noSession
  | wrongDirection
  | busy
  | notInProgress
  | notLoaded
  | badOperation
  deriving DecidableEq, Repr

/-- An error: a class with its cause (60_exceptions.md R300, R301). `PartitionCorrupt` is "never raised
as an outcome" (R309) and has no constructor here. -/
inductive Err where
  | framing (c : FramingCause)
  | sequence (c : SequenceCause)
  | crcMismatch (computed received : Word)
  | storage (c : StorageCause)
  | transport (c : TransportCause)
  | state (c : StateCause)
  deriving DecidableEq, Repr

/-- The class of an error (R301). -/
def Err.errClass : Err → ErrClass
  | .framing _ => .framing
  | .sequence _ => .sequence
  | .crcMismatch _ _ => .crcMismatch
  | .storage _ => .storage
  | .transport _ => .transport
  | .state _ => .state

/-- Where a loaded context came from (44_descriptor_validator.md R265, R268). -/
inductive LoadSource where
  | primary
  | backup
  | fresh
  | freshAfterErase
  deriving DecidableEq, Repr

/-- `BankStatus` of 00_scope.md R14. -/
inductive BankStatus where
  | empty
  | valid
  | invalid
  deriving DecidableEq, Repr

/-- `CopyStatus` of 00_scope.md R14. -/
inductive CopyStatus where
  | empty
  | valid
  | invalid
  deriving DecidableEq, Repr

/-- The values of OUTCOME (10_state.md R30). -/
inductive StepOutcome where
  | proceed
  | writeContext (c : Cat)
  | terminal (code : Half)
  | peerError (code : Half)
  | error (e : Err)
  | loaded (src : LoadSource) (ok : Bool)
  | status (s : BankStatus)
  | swapped (a : Active) (ok : Bool)
  | fixed (crc : Word) (ok : Bool)
  | committed (ok : Bool)
  | crc (v : Word)
  deriving DecidableEq, Repr

/-! ## Registers -/

/-- `Dir` of 00_scope.md R14 (10_state.md R27). -/
inductive Dir where
  | noDir
  | write
  | read
  deriving DecidableEq, Repr

/-- `Phase` of 00_scope.md R14 (10_state.md R28). -/
inductive Phase where
  | idle
  | awaitingRequest
  | transferring
  | finalizing
  deriving DecidableEq, Repr

/-- `TC`, the Transfer Context (10_state.md R25). `targetId` is `none` when the register "holds no
value" (R26). -/
structure TransferContext where
  inProgress : Bool
  targetId : Option Target
  lastBlock : Half
  expectedSize : Word
  crcReceived : Bool
  deriving DecidableEq, Repr

/-- The empty context of 10_state.md R26. -/
def TransferContext.blank : TransferContext :=
  { inProgress := false, targetId := none, lastBlock := 0, expectedSize := 0, crcReceived := false }

/-- A Partition Descriptor (10_state.md R34). The last two fields exist in the auxiliary category only;
an application descriptor holds 0 there and no rule reads them (log 12). -/
structure Descriptor where
  startAddr : Word
  contentSize : Word
  partitionSize : Word
  crc32 : Word
  uploadedSize : Word
  uploadedCrc : Word
  deriving DecidableEq, Repr

/-- A Boot Context `BC[c]` (10_state.md R33). -/
structure BootContext where
  desc0 : Descriptor
  desc1 : Descriptor
  active : Active
  ownCrc : Word
  deriving DecidableEq, Repr

/-- `AREA = (name, dev, start, size)` of a handle (10_state.md R40, 20_memory.md R61). -/
structure Area where
  name : List Byte
  dev : Device
  start : Word
  size : Word
  deriving DecidableEq, Repr

/-- The hidden state of a storage handle: BOUND, AREA, CUR (10_state.md R40). -/
structure Handle where
  bound : Bool
  area : Area
  cur : Word
  deriving DecidableEq, Repr

/-- The two handles (10_state.md R38, R40). -/
inductive HandleId where
  | tx
  | pm
  deriving DecidableEq, Repr

/-- How one storage call goes: the oracle STORAGE_FAULT of 20_memory.md R68 (b) and the power loss of
70_reset_and_hazards.md R345, between two calls or inside one. -/
inductive CallFate where
  /-- The call completes. -/
  | completes
  /-- The oracle fails the call (R68 (b)). -/
  | fails
  /-- Power is lost before the call takes effect (R345: "between any two storage calls"). -/
  | lostBefore
  /-- Power is lost inside the call (R345). -/
  | lostDuring
  deriving DecidableEq, Repr

/-! ## Why a step stops -/

/-- A register that can hold no value (10_state.md R46, 93 U8). -/
inductive Valueless where
  /-- `TC.target_id` of an empty context (R26). -/
  | targetId
  /-- `CRC_ACC` outside a computation (R41). -/
  | crcAcc
  /-- `FB` and `FLEN` before the first frame is presented (R45). -/
  | frameBuffer
  /-- `BC[c]` while `LOADED[c] = 0` (R33). -/
  | bootContext (c : Cat)
  deriving DecidableEq, Repr

/-- The machine stops. No state a run reaches raises either of these (Laws and Obligations). -/
inductive Fault where
  /-- A register that holds no value is read: "A model should make such a read a fault of the model"
  (10_state.md R46, 93 U8, 92 D41). Raised by `targetOf` and `descriptorOf`, by FRAME_IN before a frame was
  ever presented, and by the micro-operations CRC_UPDATE and CRC_FINAL. Safe: the model stops where R46 says
  that the step has no meaning. -/
  | valueless (r : Valueless)
  /-- An access through a handle bound to an area that leaves the 32-bit address space, whose bytes do not
  exist (20_memory.md R60, R61). Raised by MemRead, MemWrite and MemErase; MemInit refuses such an area, so
  no rule reaches it. Safe. -/
  | noSuchAddress
  deriving DecidableEq, Repr

/-- No meaning. Every row of the opcode table has one, so no arm of exec answers with this. -/
inductive Refusal where
  /-- An instruction this model gives no meaning yet; raised by an arm of exec only. Safe. -/
  | notModelled (mnemonic : String)
  deriving DecidableEq, Repr

/-- Why an action inside a step ends early: the `raise` of 00_scope.md R13, a loss of power
(70_reset_and_hazards.md R345), or a fault of the model. -/
inductive Stop where
  | raised (e : Err)
  | powerLost
  | fault (f : Fault)
  deriving DecidableEq, Repr

/-! ## The state -/

/-- The state of the block and its surroundings: one field per register of spec/10_state.md, the
configuration record, the two storage devices, and the tapes and events that stand for the other agents
of 00_scope.md R7 (INVENTORY.md lists each field with its rule and reset value). -/
structure State where
  /-- The configuration record (00_scope.md R9); never written. -/
  cfg : Config
  /-- MODEL's own: the events presented and not yet taken (log 2). -/
  inbox : List Event
  /-- `Store[FLASH]` (20_memory.md R60). -/
  flash : Memory
  /-- `Store[SPI]` (20_memory.md R60). -/
  spi : Memory
  /-- MODEL's own: the fate of each coming storage call; past its end every call completes (log 4, 5). -/
  storageFates : List CallFate
  /-- MODEL's own: whether each coming emission fails; past its end none does (log 4). -/
  txFaults : List Bool
  /-- MODEL's own: the bits each coming MemRead gets wrong; past its end none (log 20). -/
  readGlitches : List (List Byte)
  /-- MODEL's own: how many free bytes have been drawn (log 6). -/
  freeCtr : Nat
  /-- `FB` (10_state.md R21). -/
  fb : List Byte
  /-- `FLEN` (R21). -/
  flen : Nat
  /-- MODEL's own: whether FB and FLEN hold a value, which they do from the first frame presented on
  (R45, R46; log 8). -/
  framePresented : Bool
  /-- `TXQ` (R23). -/
  txq : List (List Byte)
  /-- `TC` (R25). -/
  tc : TransferContext
  /-- `DIR` (R27). -/
  dir : Dir
  /-- `RB_OFF` (R31). -/
  rbOff : Word
  /-- `SESSION_OPEN` (R29). -/
  sessionOpen : Bool
  /-- `EMPTY_READS` (R29). -/
  emptyReads : Bool
  /-- `FORCE_UPDATE` (R29). -/
  forceUpdate : Bool
  /-- `CORRUPT[App]` (R29). -/
  corruptApp : Bool
  /-- `CORRUPT[Aux]` (R29). -/
  corruptAux : Bool
  /-- `LOADED[App]` (R29). -/
  loadedApp : Bool
  /-- `LOADED[Aux]` (R29). -/
  loadedAux : Bool
  /-- `OUTCOME` (R30). -/
  outcome : StepOutcome
  /-- `BC[App]` (R33). -/
  bcApp : BootContext
  /-- `BC[Aux]` (R33). -/
  bcAux : BootContext
  /-- `SB_TX` (R40). -/
  sbTx : Handle
  /-- `SB_PM` (R40). -/
  sbPm : Handle
  /-- `CRC_ACC` (R41); `none` when it holds no value. -/
  crcAcc : Option Word
  deriving DecidableEq, Repr

/-- A descriptor with every field 0: what `BC[c]` holds at reset (DESIGN CHOICE, unsafe, log 9). -/
def Descriptor.zero : Descriptor :=
  { startAddr := 0, contentSize := 0, partitionSize := 0, crc32 := 0, uploadedSize := 0, uploadedCrc := 0 }

/-- What `BC[c]` holds at reset (DESIGN CHOICE, unsafe, log 9): the spec gives "no value" (R33, R45) and no
rule reads it before LOADED[c] is set. -/
def BootContext.zero : BootContext :=
  { desc0 := Descriptor.zero, desc1 := Descriptor.zero, active := .none, ownCrc := 0 }

/-- An unbound handle with CUR = 0 (R45); its AREA at reset is a DESIGN CHOICE (log 11). -/
def Handle.closed : Handle :=
  { bound := false, area := { name := [], dev := .flash, start := 0, size := 0 }, cur := 0 }

/-- The reset values (10_state.md R45, 70_reset_and_hazards.md R341) around a configuration record and the
devices' bytes. A block is made from a record by `State.build`, which checks it; a block that exists keeps its
record through `State.powerUp`. -/
def State.resetWith (cfg : Config) (flash spi : Memory) : State :=
  { cfg := cfg
    inbox := []
    flash := flash
    spi := spi
    storageFates := []
    txFaults := []
    readGlitches := []
    freeCtr := 0
    fb := List.replicate maxFrame 0#8
    flen := 0
    framePresented := false
    txq := []
    tc := TransferContext.blank
    dir := .noDir
    rbOff := 0
    sessionOpen := false
    emptyReads := false
    forceUpdate := false
    corruptApp := false
    corruptAux := false
    loadedApp := false
    loadedAux := false
    outcome := .proceed
    bcApp := BootContext.zero
    bcAux := BootContext.zero
    sbTx := Handle.closed
    sbPm := Handle.closed
    crcAcc := none }

/-- The default record satisfies the constraints of 00_scope.md R10. -/
theorem Config.default_buildable : Config.default.buildable := by decide +kernel

/-- A block built from its configuration record (70_reset_and_hazards.md R342 (1)), which must satisfy the
constraints of 00_scope.md R10; no state is built without that proof. -/
def State.build (cfg : Config) (_ok : cfg.buildable) (flash spi : Memory) : State :=
  State.resetWith cfg flash spi

/-- The check of 00_scope.md R10 on a record that is only given: no block is built from one that violates it
(93 U19: "the model should not build a block from it"). -/
def State.build? (cfg : Config) (flash spi : Memory) : Option State :=
  if h : cfg.buildable then some (State.build cfg h flash spi) else none

/-- The machine right after reset: built from the default configuration, with devices that list nothing
(log 1, 7). -/
def State.reset : State := State.build Config.default Config.default_buildable [] []

/-- The state after a reset or a loss of power: every register at its reset value, the devices as they
are (10_state.md R45, 70_reset_and_hazards.md R345); the configuration, the coming events and the tapes are
not the block's and stay. -/
def State.powerUp (s : State) : State :=
  { State.resetWith s.cfg s.flash s.spi with
    inbox := s.inbox
    storageFates := s.storageFates
    txFaults := s.txFaults
    readGlitches := s.readGlitches
    freeCtr := s.freeCtr }

end Sys2Proof.Machine
end

