-- ==== Sys2Proof/Machine/Crc.lean ====
section
/-! DEFINITION. The CRC unit's algorithm (spec/40_crc_engine.md R140 to R146), as pure functions of the
configuration and the accumulator. -/

namespace Sys2Proof.Machine

/-- One of the eight shifts of CRC_UPDATE (40_crc_engine.md R143). -/
def crcRound (cfg : Config) (acc : Word) : Word :=
  if acc.msb then (acc <<< 1) ^^^ cfg.crcPoly else acc <<< 1

/-- `repeat n times` (R143). -/
def crcRounds (cfg : Config) : Nat → Word → Word
  | 0, acc => acc
  | n + 1, acc => crcRounds cfg n (crcRound cfg acc)

/-- `b'` of R143: `reverse8(b)` when CRC_REFIN holds. -/
def crcInputByte (cfg : Config) (b : Byte) : Byte := if cfg.crcRefIn then b.reverse else b

/-- `CRC_UPDATE(b)` on an accumulator (R143). -/
def crcUpdate (cfg : Config) (acc : Word) (b : Byte) : Word :=
  crcRounds cfg 8 (acc ^^^ (crcInputByte cfg b).setWidth 32 <<< 24)

/-- The result of `CRC_FINAL` on an accumulator (R144). -/
def crcFinal (cfg : Config) (acc : Word) : Word :=
  (if cfg.crcRefOut then acc.reverse else acc) ^^^ cfg.crcXorOut

/-- The accumulator after a byte sequence, from an accumulator (R147 (a)). -/
def crcFold (cfg : Config) (acc : Word) (bytes : List Byte) : Word := bytes.foldl (crcUpdate cfg) acc

/-- `crc32(bytes)` (R145). -/
def crc32 (cfg : Config) (bytes : List Byte) : Word := crcFinal cfg (crcFold cfg cfg.crcInit bytes)

/-! The reflected form of R146, for configurations with both reflections. -/

/-- One shift of the reflected form (R146). -/
def reflectedRound (cfg : Config) (a : Word) : Word :=
  if a.getLsbD 0 then (a >>> 1) ^^^ cfg.crcPoly.reverse else a >>> 1

/-- `n` shifts of the reflected form (R146). -/
def reflectedRounds (cfg : Config) : Nat → Word → Word
  | 0, a => a
  | n + 1, a => reflectedRounds cfg n (reflectedRound cfg a)

/-- `CRC_UPDATE(b)` of the reflected form (R146). -/
def reflectedUpdate (cfg : Config) (a : Word) (b : Byte) : Word :=
  reflectedRounds cfg 8 (a ^^^ b.setWidth 32)

/-- `crc32` in the reflected form (R146). -/
def reflectedCrc32 (cfg : Config) (bytes : List Byte) : Word :=
  bytes.foldl (reflectedUpdate cfg) cfg.crcInit.reverse ^^^ cfg.crcXorOut

/-- Entry `i` of the 256-entry table of R146. -/
def crcTableEntry (cfg : Config) (i : Byte) : Word := reflectedRounds cfg 8 (i.setWidth 32)

/-- `CRC_UPDATE(b)` by the 256-entry table (R146). -/
def tableUpdate (cfg : Config) (a : Word) (b : Byte) : Word :=
  (a >>> 8) ^^^ crcTableEntry cfg (a.setWidth 8 ^^^ b)

/-- `crc32` by the 256-entry table (R146). -/
def tableCrc32 (cfg : Config) (bytes : List Byte) : Word :=
  bytes.foldl (tableUpdate cfg) cfg.crcInit.reverse ^^^ cfg.crcXorOut

end Sys2Proof.Machine
end

