-- ==== Sys2Proof/Machine/Memory.lean ====
section
/-! DEFINITION. Storage devices as memories (20_memory.md R60): reading, writing and filling bytes in the
one canonical form. -/

namespace Sys2Proof.Machine

/-- What an address no cell lists reads as. DESIGN CHOICE, unsafe (log 7): the spec gives the devices no
power-on contents; 0xFF is its default erased byte (00_scope.md R9). -/
def unlistedByte : Byte := 0xFF#8

/-- `Store[dev][a]` (20_memory.md R60). -/
def Memory.read : Memory → Nat → Byte
  | [], _ => unlistedByte
  | (k, v) :: m, a => if k = a then v else Memory.read m a

/-- The cells with the byte at one address replaced; writing what an unlisted address reads as removes the
cell. -/
def Memory.write : Memory → Nat → Byte → Memory
  | [], a, b => if b = unlistedByte then [] else [(a, b)]
  | (k, v) :: m, a, b =>
    if a < k then (if b = unlistedByte then (k, v) :: m else (a, b) :: (k, v) :: m)
    else if a = k then (if b = unlistedByte then m else (a, b) :: m)
    else (k, v) :: Memory.write m a b

/-- The bytes at `a`, `a + 1`, … replaced by a sequence, in ascending address order (R65). -/
def Memory.writeBytes : Memory → Nat → List Byte → Memory
  | m, _, [] => m
  | m, a, b :: bs => Memory.writeBytes (Memory.write m a b) (a + 1) bs

/-- The `n` bytes at `a`, `a + 1`, … in ascending address order (R64). -/
def Memory.readBytes (m : Memory) (a : Nat) : Nat → List Byte
  | 0 => []
  | n + 1 => Memory.read m a :: Memory.readBytes m (a + 1) n

/-- The `n` bytes from `a` all made `b` (R66). -/
def Memory.fill (m : Memory) (a n : Nat) (b : Byte) : Memory :=
  if b = unlistedByte then m.filter fun c => c.1 < a || a + n ≤ c.1
  else Memory.writeBytes m a (List.replicate n b)

/-- What programming a sequence leaves at `a`, `a + 1`, …: the byte itself where the old byte is erased, a
free draw otherwise (20_memory.md R65, R75; 93 U3). -/
def Memory.programmed (m : Memory) (erased : Byte) : Nat → Nat → List Byte → List Byte
  | _, _, [] => []
  | a, ctr, b :: bs =>
    (if Memory.read m a = erased then b else Config.freeByte ctr) ::
      Memory.programmed m erased (a + 1) (ctr + 1) bs

/-- `n` free draws from the `ctr`-th on (R68, 70_reset_and_hazards.md R345; 93 U4, U5). -/
def freeBytes (ctr : Nat) : Nat → List Byte
  | 0 => []
  | n + 1 => Config.freeByte ctr :: freeBytes (ctr + 1) n

/-- The canonical form: addresses strictly rising, no cell equal to what an unlisted address reads as. -/
abbrev Memory.wf (m : Memory) : Prop :=
  m.Pairwise (fun x y => x.1 < y.1) ∧ ∀ c ∈ m, c.2 ≠ unlistedByte

end Sys2Proof.Machine
end

