-- ==== Sys2Proof/Machine/Flags.lean ====
section
/-! DEFINITION. The flags of 10_state.md R28 and R29: the phase computed from them, and each flag's
setting and clearing. -/

namespace Sys2Proof.Machine

/-- The phase, a function of the flags (10_state.md R28). -/
def phase (s : State) : Phase :=
  if s.sessionOpen = false then .idle
  else if s.tc.inProgress = false then .awaitingRequest
  else if s.tc.crcReceived = true then .finalizing
  else .transferring

/-- `LOADED[c]` (R29). -/
def State.loaded (s : State) : Cat → Bool
  | .app => s.loadedApp
  | .aux => s.loadedAux

/-- `LOADED[c] <- 1` (R29; 44_descriptor_validator.md R265). -/
def State.setLoaded (s : State) : Cat → State
  | .app => { s with loadedApp := true }
  | .aux => { s with loadedAux := true }

/-- `CORRUPT[c]` (R29). -/
def State.corrupt (s : State) : Cat → Bool
  | .app => s.corruptApp
  | .aux => s.corruptAux

/-- `CORRUPT[c] <- 1` and, for App, `FORCE_UPDATE <- 1` (44_descriptor_validator.md R268). -/
def State.markCorrupt (s : State) : Cat → State
  | .app => { s with corruptApp := true, forceUpdate := true }
  | .aux => { s with corruptAux := true }

/-- `SESSION_OPEN <- 0` (R29: a terminal command or a session-fatal error). -/
def State.closeSession (s : State) : State := { s with sessionOpen := false }

/-- `EMPTY_READS <- 0` (R29; 43_session_driver.md R230). -/
def State.clearEmptyReads (s : State) : State := { s with emptyReads := false }

/-- `TC.crc_received <- true` (R25; 42_command_dispatch.md R205). -/
def State.markCrcReceived (s : State) : State := { s with tc.crcReceived := true }

end Sys2Proof.Machine
end

