-- ==== Sys2Proof/Machine/Operands.lean ====
section
/-! DEFINITION. The operand forms: what a name, a category and bank, a size or a handle operand refers
to (30_encoding.md R112, R125; 20_memory.md R78; 10_state.md R33 to R35, R40). -/

namespace Sys2Proof.Machine

/-! ## Names and targets -/

/-- `TARGET_NAME[nm]` (30_encoding.md R112): byte for byte, no case folding (R108). Where the record lists the
empty name, which 00_scope.md R10 does not exclude, the lookup of 41_frame_parser.md R165 and R170 accepts it,
though R166 (e) calls an empty name UnknownTarget (DESIGN CHOICE, unsafe, log 37). -/
def targetNamed (cfg : Config) (name : List Byte) : Option Target :=
  (cfg.targetNames.find? fun p => p.1 == name).map Prod.snd

/-- `name(cat, bank)`: the name of R112 for that target (40_crc_engine.md R150, 44_descriptor_validator.md
R268). A TARGET_NAME that gives the target several names or none, which 00_scope.md R9 and R10 do not exclude,
gives the first one listed or the empty name (DESIGN CHOICE, unsafe, log 33). -/
def nameOf (cfg : Config) (t : Target) : List Byte :=
  ((cfg.targetNames.find? fun p => p.2 == t).map Prod.fst).getD []

/-! ## Boot Contexts and descriptors -/

/-- `desc[i]` of a context (10_state.md R33). -/
def BootContext.desc (ctx : BootContext) : Bank → Descriptor
  | .b0 => ctx.desc0
  | .b1 => ctx.desc1

/-- A context with `desc[i]` replaced. -/
def BootContext.setDesc (ctx : BootContext) (b : Bank) (d : Descriptor) : BootContext :=
  match b with
  | .b0 => { ctx with desc0 := d }
  | .b1 => { ctx with desc1 := d }

/-- `BC[c]` (10_state.md R33). -/
def State.bc (s : State) : Cat → BootContext
  | .app => s.bcApp
  | .aux => s.bcAux

/-- `BC[c] <- ctx` (10_state.md R33). -/
def State.setBc (s : State) (c : Cat) (ctx : BootContext) : State :=
  match c with
  | .app => { s with bcApp := ctx }
  | .aux => { s with bcAux := ctx }

/-- `BC[c].desc[bank]`, the operand of 40_crc_engine.md R150 and of the validator. -/
def State.desc (s : State) (c : Cat) (b : Bank) : Descriptor := (s.bc c).desc b

/-- `BC[c].desc[bank] <- d`. -/
def State.setDesc (s : State) (c : Cat) (b : Bank) (d : Descriptor) : State :=
  s.setBc c ((s.bc c).setDesc b d)

/-- `span(c, d)` (10_state.md R35). -/
def span (c : Cat) (d : Descriptor) : Word :=
  match c with
  | .app => d.partitionSize
  | .aux => d.contentSize

/-- `fin_span(c, d, n)` (42_command_dispatch.md R206). -/
def finSpan (cfg : Config) (c : Cat) (d : Descriptor) (n : Word) : Word :=
  match c with
  | .app => d.partitionSize
  | .aux => if cfg.auxSpanIsBytesWritten then n else d.contentSize

/-- A size operand: 0 means the whole partition (40_crc_engine.md R150; 44_descriptor_validator.md R274). -/
def sizeOperand (d : Descriptor) (size : Word) : Word := if size = 0 then d.partitionSize else size

/-! ## Areas and handles -/

/-- `start + size <= 2^32` (20_memory.md R61). -/
def Area.fits (a : Area) : Bool := a.start.toNat + a.size.toNat ≤ 2 ^ 32

/-- The area of a bank as its descriptor places it (20_memory.md R78). -/
def bankArea (cfg : Config) (c : Cat) (b : Bank) (d : Descriptor) : Area :=
  { name := nameOf cfg (Target.make c b), dev := cfg.dev c, start := d.startAddr, size := d.partitionSize }

/-- The area of a bank as the configuration places it (20_memory.md R78, 44_descriptor_validator.md R268). -/
def configuredArea (cfg : Config) (c : Cat) (b : Bank) : Area :=
  { name := nameOf cfg (Target.make c b), dev := cfg.dev c
    start := (cfg.geometry c b).start, size := (cfg.geometry c b).size }

/-- One of the two persisted copies of a Boot Context (44_descriptor_validator.md R262). -/
inductive Copy where
  | primary
  | backup
  deriving DecidableEq, Repr

/-- `addr(c, which)` (R262). -/
def copyAddr (cfg : Config) : Cat → Copy → Word
  | .app, .primary => cfg.appCtxPrimary
  | .app, .backup => cfg.appCtxBackup
  | .aux, .primary => cfg.auxCtxPrimary
  | .aux, .backup => cfg.auxCtxBackup

/-- The labels of the four context areas (20_memory.md R78): appctx_p, appctx_b, auxctx_p, auxctx_b. -/
def copyName : Cat → Copy → List Byte
  | .app, .primary => [0x61, 0x70, 0x70, 0x63, 0x74, 0x78, 0x5F, 0x70]
  | .app, .backup => [0x61, 0x70, 0x70, 0x63, 0x74, 0x78, 0x5F, 0x62]
  | .aux, .primary => [0x61, 0x75, 0x78, 0x63, 0x74, 0x78, 0x5F, 0x70]
  | .aux, .backup => [0x61, 0x75, 0x78, 0x63, 0x74, 0x78, 0x5F, 0x62]

/-- The area of a context copy: one erase sector (20_memory.md R73, R78). -/
def copyArea (cfg : Config) (c : Cat) (which : Copy) : Area :=
  { name := copyName c which, dev := cfg.dev c
    start := copyAddr cfg c which, size := cfg.sectorSize (cfg.dev c) }

/-- A handle by its name (10_state.md R40). -/
def State.handle (s : State) : HandleId → Handle
  | .tx => s.sbTx
  | .pm => s.sbPm

/-- A handle replaced. -/
def State.setHandle (s : State) (h : HandleId) (x : Handle) : State :=
  match h with
  | .tx => { s with sbTx := x }
  | .pm => { s with sbPm := x }

/-- A handle after MemClose: BOUND and CUR cleared (20_memory.md R70; AREA stays, log 11). -/
def Handle.close (x : Handle) : Handle := { x with bound := false, cur := 0 }

/-- `Store[dev]` (20_memory.md R60). -/
def State.store (s : State) : Device → Memory
  | .flash => s.flash
  | .spi => s.spi

/-- A device's bytes replaced. -/
def State.setStore (s : State) (d : Device) (m : Memory) : State :=
  match d with
  | .flash => { s with flash := m }
  | .spi => { s with spi := m }

end Sys2Proof.Machine
end

