-- ==== Sys2Proof/Machine/Ops.lean ====
section
/-! DEFINITION. The shared operations: an action inside a step, the storage calls of spec/20_memory.md,
the emission of a frame, and taking an error (spec/60_exceptions.md) with the return from one. -/

namespace Sys2Proof.Machine

/-- An action inside a step: it reads and writes the state and may end the step early (00_scope.md R13). -/
abbrev Act := EStateM Stop State

/-- `raise <Class>(<cause>)` (00_scope.md R13); what it does to the state is `takeError`. -/
def raise {α : Type} (e : Err) : Act α := throw (.raised e)

/-- `if not p then raise e`. -/
def require (p : Prop) [Decidable p] (e : Err) : Act Unit := if p then pure () else raise e

/-- The value of a register that can hold none (10_state.md R46). -/
def valueOf {α : Type} (r : Valueless) (v : Option α) : Act α :=
  match v with
  | some a => pure a
  | none => throw (.fault (.valueless r))

/-! ## Storage calls (spec/20_memory.md R62 to R70) -/

/-- How the next storage call goes (R68 (b)): past the tape's end every call completes. -/
def State.fate (s : State) : CallFate := s.storageFates.headD .completes

/-- One tape entry is spent by each storage call. -/
def State.spendFate (s : State) : State := { s with storageFates := s.storageFates.tail }

/-- The fate of this storage call; power lost before the call ends the step
(70_reset_and_hazards.md R345). -/
def takeFate : Act CallFate := do
  let s ← get
  set s.spendFate
  if s.fate = .lostBefore then throw .powerLost else pure s.fate

/-- A call that addresses no storage byte ends: power lost inside it leaves nothing (R345), the oracle's
failure only fails it (R68 (b)). -/
def endCall {α : Type} (fate : CallFate) (ok fail : α) : Act α :=
  match fate with
  | .completes => pure ok
  | .fails => pure fail
  | .lostBefore => throw .powerLost
  | .lostDuring => throw .powerLost

/-- An access needs its area inside the 32-bit address space, where its bytes exist (R60, R61). -/
def needArea (a : Area) : Act Unit := if a.fits then pure () else throw (.fault .noSuchAddress)

/-- `MemBind(h, name, dev, start, size)` (R62). -/
def memBind (h : HandleId) (a : Area) : Act Unit :=
  modify fun s => s.setHandle h { bound := true, area := a, cur := 0 }

/-- `MemClose(h)` (R70). -/
def memClose (h : HandleId) : Act Unit := modify fun s => s.setHandle h (s.handle h).close

/-- `MemInit(h)` (R63; R61 and R68 (a): it fails where the area does not fit). -/
def memInit (h : HandleId) : Act Bool := do
  let fate ← takeFate
  let s ← get
  endCall fate ((s.handle h).bound && (s.handle h).area.fits) false

/-- The bytes a read gets wrong (93 U7): each mask byte is XORed onto the byte read. -/
def glitched : List Byte → List Byte → List Byte
  | b :: bs, m :: ms => (b ^^^ m) :: glitched bs ms
  | bs, _ => bs

/-- The mask of the next MemRead (93 U7): "default none". -/
def State.glitch (s : State) : List Byte := s.readGlitches.headD []

/-- One mask is spent by each MemRead. -/
def State.spendGlitch (s : State) : State := { s with readGlitches := s.readGlitches.tail }

/-- `MemRead(h, off, n)`; `none` is a failure (R64, R68). -/
def memRead (h : HandleId) (off n : Nat) : Act (Option (List Byte)) := do
  let fate ← takeFate
  let s ← get
  set s.spendGlitch
  let hd := s.handle h
  if hd.bound = false ∨ hd.area.size.toNat < off + n then endCall fate none none
  else do
    needArea hd.area
    endCall fate
      (some (glitched (Memory.readBytes (s.store hd.area.dev) (hd.area.start.toNat + off) n) s.glitch)) none

/-- `n` free values drawn (log 6). -/
def State.draw (s : State) (n : Nat) : State := { s with freeCtr := s.freeCtr + n }

/-- The `n` bytes at `a` become free draws (R68, R345; 93 U4, U5). -/
def State.scramble (s : State) (dev : Device) (a n : Nat) : State :=
  { s.setStore dev (Memory.writeBytes (s.store dev) a (freeBytes s.freeCtr n)) with
    freeCtr := s.freeCtr + n }

/-- The bytes at `a` become what programming a sequence leaves (R65, R75; 93 U3). -/
def State.program (s : State) (dev : Device) (a : Nat) (bytes : List Byte) : State :=
  { s.setStore dev (Memory.writeBytes (s.store dev) a
      (Memory.programmed (s.store dev) s.cfg.erasedByte a s.freeCtr bytes)) with
    freeCtr := s.freeCtr + bytes.length }

/-- Every byte of an area becomes ERASED_BYTE (R66). -/
def State.eraseArea (s : State) (a : Area) : State :=
  s.setStore a.dev (Memory.fill (s.store a.dev) a.start.toNat a.size.toNat s.cfg.erasedByte)

/-- The address a handle's cursor stands at (R65). -/
def Handle.cursor (x : Handle) : Nat := x.area.start.toNat + x.cur.toNat

/-- `MemWrite(h, bytes)`; `false` is a failure (R65, R68). -/
def memWrite (h : HandleId) (bytes : List Byte) : Act Bool := do
  let fate ← takeFate
  let hd := (← get).handle h
  if hd.bound = false ∨ hd.area.size.toNat < hd.cur.toNat + bytes.length then endCall fate false false
  else do
    needArea hd.area
    match fate with
    | .completes =>
      modify fun s =>
        (s.program hd.area.dev hd.cursor bytes).setHandle h
          { hd with cur := hd.cur + BitVec.ofNat 32 bytes.length }
      pure true
    | _ =>
      modify fun s => s.scramble hd.area.dev hd.cursor bytes.length
      endCall fate true false

/-- `MemErase(h)`; `false` is a failure (R66, R68). -/
def memErase (h : HandleId) : Act Bool := do
  let fate ← takeFate
  let hd := (← get).handle h
  if hd.bound = false then endCall fate false false
  else do
    needArea hd.area
    match fate with
    | .completes =>
      modify fun s => (s.eraseArea hd.area).setHandle h { hd with cur := 0 }
      pure true
    | _ =>
      modify fun s => s.scramble hd.area.dev hd.area.start.toNat hd.area.size.toNat
      endCall fate true false

/-- `MemFlush(h)`: the bytes written since the bind; `none` is a failure (R67, R68). -/
def memFlush (h : HandleId) : Act (Option Word) := do
  let fate ← takeFate
  let hd := (← get).handle h
  endCall fate (if hd.bound then some hd.cur else none) none

/-- `region_crc(h, n)` (40_crc_engine.md R150), the region read in one call (93 U20); `none` is a storage
failure. -/
def regionCrc (h : HandleId) (n : Word) : Act (Option Word) := do
  let s ← get
  let bytes ← memRead h 0 n.toNat
  pure (bytes.map (crc32 s.cfg))

/-! ## Emission (43_session_driver.md R234) -/

/-- Whether the next emission fails: one tape entry an emission (R234; 93 U6). -/
def State.nextTxFails (s : State) : Bool := s.txFaults.headD false

/-- `emit F`, where TX_FAULT lets it through: the frame at the end of TXQ (10_state.md R23). -/
def State.push (s : State) (f : List Byte) : State :=
  { s with txFaults := s.txFaults.tail, txq := s.txq ++ [f] }

/-- An emission that TX_FAULT fails. -/
def State.dropPush (s : State) : State := { s with txFaults := s.txFaults.tail }

/-- `emit F` (00_scope.md R13; R234: a failure raises `Transport(Write)`). -/
def emit (f : List Byte) : Act Unit := do
  let s ← get
  if s.nextTxFails then do
    set s.dropPush
    raise (.transport .write)
  else set (s.push f)

/-- `Command(c)` for the terminating command of a category (30_encoding.md R114, 43 R241). -/
def terminatingCommand (cfg : Config) : Cat → List Byte
  | .app => Frame.bytes (.cmd cfg.cmdCodes.endTransfer [])
  | .aux => Frame.bytes (.cmd cfg.cmdCodes.spiEnd [])

/-- `Error(k, "")`: 5 bytes (30_encoding.md R114, 43_session_driver.md R236). -/
def errorFrame (cfg : Config) (k : ErrClass) : List Byte :=
  Frame.bytes (.error (cfg.errCodes.of k)) ++ [0#8]

/-! ## Taking an error, and returning from one -/

/-- `context_reset()` (10_state.md R26). -/
def contextReset (s : State) : State :=
  { s with
    tc := TransferContext.blank
    dir := .noDir
    rbOff := 0
    sbTx := if s.sbTx.bound then s.sbTx.close else s.sbTx }

/-- What each class does to the state (60_exceptions.md R303 to R308, R310). -/
def takeError (e : Err) (s : State) : State :=
  match e with
  | .framing _ => s
  | .state _ => s
  | .sequence _ => s.closeSession
  | .crcMismatch _ _ => (contextReset s).closeSession
  | .storage _ => (contextReset s).closeSession
  | .transport .emptyRead => ((contextReset s).closeSession).clearEmptyReads
  | .transport .write => (contextReset s).closeSession

/-- The error reply of 43_session_driver.md R236; "a failure of that emission is ignored". -/
def errorReply (e : Err) (s : State) : State :=
  match s.cfg.errorReply with
  | .none => s
  | .always => if s.nextTxFails then s.dropPush else s.push (errorFrame s.cfg e.errClass)

/-- The last action of a step: OUTCOME is written (10_state.md R30), and no value of CRC_ACC survives
(R41). -/
def finish (v : StepOutcome) (s : State) : State := { s with outcome := v, crcAcc := none }

/-- The return from an error: the session opened afresh (60_exceptions.md R313, 43_session_driver.md
R231). -/
def reopenSession (s : State) : State := { (contextReset s).clearEmptyReads with sessionOpen := true }

/-- The end of a FRAME_IN step in an open session: its outcome written, or its error taken and reported
(R300), or power lost (70_reset_and_hazards.md R345). -/
def settleFrame (r : EStateM.Result Stop State StepOutcome) : Host.Outcome State Fault Refusal :=
  match r with
  | .ok v s => .next (finish v s)
  | .error (.raised e) s => .next (finish (.error e) (errorReply e (takeError e s)))
  | .error .powerLost s => .next s.powerUp
  | .error (.fault f) _ => .fault f

/-- The end of a caller operation: an error ends the operation and is reported; the session, the Transfer
Context and SB_TX are not touched (60_exceptions.md R306). -/
def settleOperation (r : EStateM.Result Stop State StepOutcome) : Host.Outcome State Fault Refusal :=
  match r with
  | .ok v s => .next (finish v s)
  | .error (.raised e) s => .next (finish (.error e) s)
  | .error .powerLost s => .next s.powerUp
  | .error (.fault f) _ => .fault f

/-- The wrapper of FRAME_IN with FLEN > 0 (43_session_driver.md R230): EMPTY_READS cleared, the session
tested, then the rule. -/
def frameStep (rule : Act StepOutcome) (s : State) : Host.Outcome State Fault Refusal :=
  if s.sessionOpen = false then .next (finish (.error (.state .noSession)) s.clearEmptyReads)
  else settleFrame (rule s.clearEmptyReads)

/-- A caller operation (30_encoding.md R126): it needs no session. -/
def operationStep (rule : Act StepOutcome) (s : State) : Host.Outcome State Fault Refusal :=
  settleOperation (rule s)

end Sys2Proof.Machine
end

