-- ==== Sys2Proof/Machine/Session.lean ====
section
/-! DEFINITION. The session driver (spec/43_session_driver.md): SESSION_RESET, the empty read, and the
read-back emitter. -/

namespace Sys2Proof.Machine

/-- `SESSION_RESET` (43_session_driver.md R231). -/
def execSessionReset (s : State) : Host.Outcome State Fault Refusal :=
  .next (finish .proceed (reopenSession s))

/-- The empty-read event in an open session (R232). -/
def emptyReadRule : Act StepOutcome := do
  let s ← get
  if s.emptyReads = false then do
    set { s with emptyReads := true }
    pure .proceed
  else do
    set s.clearEmptyReads
    raise (.transport .emptyRead)

/-- The empty-read step (R232): with no session open it changes nothing, EMPTY_READS included. -/
def emptyReadStep (s : State) : Host.Outcome State Fault Refusal :=
  if s.sessionOpen = false then .next (finish (.error (.state .noSession)) s)
  else settleFrame (emptyReadRule s)

/-- `EMPTY` (R232). -/
def execEmpty (s : State) : Host.Outcome State Fault Refusal := emptyReadStep s

/-- `TC.target_id`, read only where a transfer is in progress (10_state.md R26, R46). -/
def targetOf (s : State) : Act Target := valueOf .targetId s.tc.targetId

/-- `BC[c].desc[bank]` for a rule that does not test LOADED[c] itself (10_state.md R33, R46). -/
def descriptorOf (s : State) (c : Cat) (b : Bank) : Act Descriptor :=
  valueOf (.bootContext c) (if s.loaded c then some (s.desc c b) else none)

/-- End of read-back (43_session_driver.md R241). -/
def readbackEnd : Act StepOutcome := do
  let s ← get
  let t ← targetOf s
  emit (terminatingCommand s.cfg t.cat)
  modify contextReset
  pure .proceed

/-- `rb_emit()` (43_session_driver.md R240). -/
def rbEmit : Act StepOutcome := do
  let s ← get
  if s.tc.expectedSize.toNat ≤ s.rbOff.toNat then readbackEnd
  else do
    let n := min blockMax (s.tc.expectedSize.toNat - s.rbOff.toNat)
    let blk := s.rbOff.toNat / blockMax
    require (blk ≤ 0xFFFF) (.sequence .blockOverflow)
    match ← memRead .tx s.rbOff.toNat n with
    | none => raise (.storage .read)
    | some p => do
      emit (Frame.bytes (.data (BitVec.ofNat 16 blk) p))
      modify fun s =>
        { s with tc.lastBlock := BitVec.ofNat 16 blk, rbOff := s.rbOff + BitVec.ofNat 32 n }
      pure .proceed

end Sys2Proof.Machine
end

