-- ==== Sys2Proof/Machine/Frames.lean ====
section
/-! DEFINITION. The kind rules of the six non-command frames (spec/41_frame_parser.md) and the direction
gate. Each meaning is a whole FRAME_IN step that presents its frame (43_session_driver.md R230). -/

namespace Sys2Proof.Machine

/-- The kinds the direction gate stops while `DIR = Read` (41_frame_parser.md R164). -/
def Kind.gated : Kind → Bool
  | .readRequest | .writeRequest | .data | .command => true
  | .ack | .error | .debug => false

/-- The direction gate (R164). -/
def gate (k : Kind) : Act Unit := do
  let s ← get
  require (¬ (s.dir = .read ∧ Kind.gated k = true)) (.state .wrongDirection)

/-- The target a request names, once no transfer is open and its category is loaded (R165, R170). -/
def requestTarget (name : List Byte) : Act Target := do
  let s ← get
  match targetNamed s.cfg name with
  | none => raise (.framing .unknownTarget)
  | some t => do
    require (s.tc.inProgress = false) (.state .busy)
    require (s.loaded t.cat = true) (.state .notLoaded)
    pure t

/-- The area of the bank a request addresses: bound under the name the request gave (R165, R170). -/
def requestArea (s : State) (name : List Byte) (t : Target) : Area :=
  { name := name, dev := s.cfg.dev t.cat
    start := (s.desc t.cat t.bank).startAddr, size := (s.desc t.cat t.bank).partitionSize }

/-- A storage call of a request: "on failure: MemClose(SB_TX); raise Storage(cause)" (R165, R170). -/
def requestCall (call : Act Bool) (cause : StorageCause) : Act Unit := do
  let ok ← call
  if ok then pure () else do
    memClose .tx
    raise (.storage cause)

/-- The ReadRequest rule (R165). -/
def readRequestRule (length : Word) (name : List Byte) : Act StepOutcome := do
  let t ← requestTarget name
  let s ← get
  memBind .tx (requestArea s name t)
  requestCall (memInit .tx) .init
  modify fun s =>
    { s with
      tc := { inProgress := true, targetId := some t, lastBlock := 0, expectedSize := length
              crcReceived := false }
      dir := .read
      rbOff := 0 }
  rbEmit

/-- `RRQ length, "name"` (R165, R166). -/
def execRrq (length : Word) (name : List Byte) (s : State) : Host.Outcome State Fault Refusal :=
  frameStep (do gate .readRequest; readRequestRule length name) s

/-- Whether a WriteRequest erases its bank (R170: `cat(t) = App or AUX_ERASE_ON_OPEN`). -/
def erasesOnOpen (cfg : Config) (c : Cat) : Bool := c == .app || cfg.auxEraseOnOpen

/-- The WriteRequest rule (R170). -/
def writeRequestRule (name : List Byte) : Act StepOutcome := do
  let t ← requestTarget name
  let s ← get
  memBind .tx (requestArea s name t)
  requestCall (memInit .tx) .init
  requestCall (do pure (← memFlush .tx).isSome) .flush
  if erasesOnOpen s.cfg t.cat then requestCall (memErase .tx) .erase else pure ()
  modify fun s =>
    { s with
      tc := { s.tc with inProgress := true, targetId := some t, lastBlock := 0, crcReceived := false }
      dir := .write }
  emit (Frame.bytes (.ack 0))
  pure .proceed

/-- `WRQ "name"` (R170, R171). -/
def execWrq (name : List Byte) (s : State) : Host.Outcome State Fault Refusal :=
  frameStep (do gate .writeRequest; writeRequestRule name) s

/-- The Data rule (R175); block numbers are compared as unbounded integers (R176 (b)). -/
def dataRule (block : Half) (payload : List Byte) : Act StepOutcome := do
  let s ← get
  require (s.tc.inProgress = true) (.state .notInProgress)
  require (block.toNat = s.tc.lastBlock.toNat + 1) (.sequence .blockMismatch)
  let ok ← memWrite .tx payload
  require (ok = true) (.storage .write)
  modify fun s => { s with tc.lastBlock := block }
  emit (Frame.bytes (.ack block))
  pure .proceed

/-- `DATA block, payload` (R175, R176). -/
def execData (block : Half) (payload : List Byte) (s : State) : Host.Outcome State Fault Refusal :=
  frameStep (do gate .data; dataRule block payload) s

/-- The Ack rule (R180). -/
def ackRule (block : Half) : Act StepOutcome := do
  let s ← get
  require (s.tc.inProgress = true) (.state .notInProgress)
  require (block = s.tc.lastBlock) (.sequence .ackMismatch)
  if s.dir = .read then rbEmit else pure .proceed

/-- `ACK block` (R180, R181). -/
def execAck (block : Half) (s : State) : Host.Outcome State Fault Refusal :=
  frameStep (do gate .ack; ackRule block) s

/-- The Error rule (R185). -/
def errorRule (code : Half) : Act StepOutcome := do
  let s ← get
  require (¬ (code < s.cfg.errMin ∨ s.cfg.errMax < code)) (.framing .errorCode)
  if s.dir = .read then modify contextReset else pure ()
  pure (.peerError code)

/-- `ERROR code` (R185, R186). -/
def execError (code : Half) (s : State) : Host.Outcome State Fault Refusal :=
  frameStep (do gate .error; errorRule code) s

/-- `DEBUG` (R190). -/
def execDebug (s : State) : Host.Outcome State Fault Refusal :=
  frameStep (do gate .debug; pure .proceed) s

end Sys2Proof.Machine
end

