-- ==== Sys2Proof/Machine/Commands.lean ====
section
/-! DEFINITION. The Command frame and its thirteen codes (spec/42_command_dispatch.md), and FRAME_IN, which
reaches every kind rule through the front end (spec/41_frame_parser.md R160, spec/43_session_driver.md
R230). -/

namespace Sys2Proof.Machine

/-- The twelve terminal commands (42_command_dispatch.md R201). -/
def terminalRule (code : Half) : Act StepOutcome := do
  modify fun s => (contextReset s).closeSession
  pure (.terminal code)

/-- The descriptor a matching finalising CRC leaves: `v` computed, `n` bytes written, `received` the value
the frame carried (R205). -/
def finalised (cfg : Config) (c : Cat) (d : Descriptor) (v n received : Word) : Descriptor :=
  match c with
  | .app => { d with crc32 := v }
  | .aux =>
    { d with
      crc32 := v
      uploadedSize := n
      uploadedCrc := received
      contentSize := if cfg.auxSpanIsBytesWritten then n else d.contentSize }

/-- The finalising CRC (R205). -/
def crcCommandRule (received : Word) : Act StepOutcome := do
  let s ← get
  require (s.tc.inProgress = true) (.state .notInProgress)
  let t ← targetOf s
  let d ← descriptorOf s t.cat t.bank
  match ← memFlush .tx with
  | none => raise (.storage .flush)
  | some n => do
    match ← regionCrc .tx (finSpan s.cfg t.cat d n) with
    | none => raise (.storage .read)
    | some v => do
      require (v = received) (.crcMismatch v received)
      modify fun s =>
        (s.setDesc t.cat t.bank (finalised s.cfg t.cat d v n received)).markCrcReceived
      pure (.writeContext t.cat)

/-- The Command front end (R200): the code's range, then the Crc command's length, then the rule. -/
def commandRule (code : Half) (tail : List Byte) : Act StepOutcome := do
  let s ← get
  match commandOf s.cfg code with
  | none => raise (.framing .commandCode)
  | some .crc => do
    require (4 ≤ tail.length) (.framing .size)
    crcCommandRule (be32 tail 0)
  | some _ => terminalRule code

/-- `CMD` (R200): a Command frame with any code. -/
def execCmd (code : Half) (tail : List Byte) (s : State) : Host.Outcome State Fault Refusal :=
  frameStep (do gate .command; commandRule code tail) s

/-- A terminal command's step: the direction gate, then R201. -/
def terminalStep (k : Cmd) (s : State) : Host.Outcome State Fault Refusal :=
  frameStep (do gate .command; terminalRule (s.cfg.cmdCodes.of k)) s

/-- `CMD Boot` (R210). -/
def execCmdBoot (s : State) : Host.Outcome State Fault Refusal := terminalStep .boot s

/-- `CMD Reset` (R211). -/
def execCmdReset (s : State) : Host.Outcome State Fault Refusal := terminalStep .reset s

/-- `CMD Swap` (R212). -/
def execCmdSwap (s : State) : Host.Outcome State Fault Refusal := terminalStep .swap s

/-- `CMD BootInfo` (R213). -/
def execCmdBootInfo (s : State) : Host.Outcome State Fault Refusal := terminalStep .bootInfo s

/-- `CMD PowerOn` (R214). -/
def execCmdPowerOn (s : State) : Host.Outcome State Fault Refusal := terminalStep .powerOn s

/-- `CMD PowerOff` (R215). -/
def execCmdPowerOff (s : State) : Host.Outcome State Fault Refusal := terminalStep .powerOff s

/-- `CMD End` (R216). -/
def execCmdEnd (s : State) : Host.Outcome State Fault Refusal := terminalStep .endTransfer s

/-- `CMD SpiEnd` (R217). -/
def execCmdSpiEnd (s : State) : Host.Outcome State Fault Refusal := terminalStep .spiEnd s

/-- `CMD TriggerWatchdog` (R218). -/
def execCmdTriggerWatchdog (s : State) : Host.Outcome State Fault Refusal := terminalStep .triggerWatchdog s

/-- `CMD EraseSpi` (R219). -/
def execCmdEraseSpi (s : State) : Host.Outcome State Fault Refusal := terminalStep .eraseSpi s

/-- `CMD SetBank0` (R220). -/
def execCmdSetBank0 (s : State) : Host.Outcome State Fault Refusal := terminalStep .setBank0 s

/-- `CMD SetBank1` (R221). -/
def execCmdSetBank1 (s : State) : Host.Outcome State Fault Refusal := terminalStep .setBank1 s

/-- `CMD Crc, value` (R205, R207). -/
def execCmdCrc (value : Word) (s : State) : Host.Outcome State Fault Refusal :=
  frameStep (do gate .command; crcCommandRule value) s

/-! ## FRAME_IN -/

/-- The kind rule of a decoded frame, the direction gate first (41_frame_parser.md R160). -/
def frameRule (f : Frame) : Act StepOutcome := do
  gate f.kind
  match f with
  | .rrq length name => readRequestRule length name
  | .wrq name => writeRequestRule name
  | .data block payload => dataRule block payload
  | .ack block => ackRule block
  | .error code => errorRule code
  | .cmd code tail => commandRule code tail
  | .debug => pure .proceed

/-- The error of a frame that has no fields; where the kind was selected, the direction gate comes first
(41_frame_parser.md R160, 60_exceptions.md R302). -/
def malformedRule (e : FrameError) : Act StepOutcome :=
  match e with
  | .size => raise (.framing .size)
  | .sentinel => raise (.framing .sentinel)
  | .opcode => raise (.framing .opcode)
  | .kindSize k => do
    gate k
    raise (.framing .size)
  | .noName k => do
    gate k
    raise (.framing .name)

/-- The front end and the kind rule it selects, on FB and FLEN (41_frame_parser.md R160). -/
def frontEnd (s : State) : Act StepOutcome :=
  match decodeFrame s.fb s.flen with
  | .ok f => frameRule f
  | .error e => malformedRule e

/-- `FRAME_IN` (43_session_driver.md R230). Before any frame was presented FB and FLEN hold no value
(10_state.md R45, R46). -/
def execFrameIn (s : State) : Host.Outcome State Fault Refusal :=
  if s.framePresented = false then .fault (.valueless .frameBuffer)
  else if s.flen = 0 then emptyReadStep s else frameStep (frontEnd s) s

end Sys2Proof.Machine
end

