-- ==== Sys2Proof/Machine/Records.lean ====
section
/-! DEFINITION. The persisted record of a Boot Context (spec/20_memory.md R80 to R82), its classification
and the fresh context (spec/44_descriptor_validator.md R263, R264). -/

namespace Sys2Proof.Machine

/-- `ARR_LEN[c]` (20_memory.md R80). -/
def arrLen : Cat → Nat
  | .app => 32
  | .aux => 48

/-- `REC_LEN[c]`: the array, the selector and the own CRC (R80); 40 and 56 bytes when ACTIVE_BYTES is 4. -/
def recLen (cfg : Config) (c : Cat) : Nat := arrLen c + cfg.activeBytes + 4

/-- A u32 field of a record (R71 (2), R80). -/
def encWord (cfg : Config) (v : Word) : List Byte := encUint cfg.persistEndian 4 v.toNat

/-- The u32 field at an offset of a record. -/
def wordAt (cfg : Config) (bytes : List Byte) (off : Nat) : Word :=
  BitVec.ofNat 32 (decUint cfg.persistEndian (slice bytes off (off + 4)))

/-- The bytes of one descriptor (R80): two more fields in the auxiliary record. -/
def descriptorBytes (cfg : Config) (c : Cat) (d : Descriptor) : List Byte :=
  encWord cfg d.startAddr ++ encWord cfg d.contentSize ++ encWord cfg d.partitionSize ++
    encWord cfg d.crc32 ++
    match c with
    | .app => []
    | .aux => encWord cfg d.uploadedSize ++ encWord cfg d.uploadedCrc

/-- The serialised descriptor array, the only bytes the own CRC covers (10_state.md R36). -/
def arrayBytes (cfg : Config) (c : Cat) (ctx : BootContext) : List Byte :=
  descriptorBytes cfg c ctx.desc0 ++ descriptorBytes cfg c ctx.desc1

/-- The own CRC computed over a context's array (10_state.md R36). -/
def computedOwnCrc (cfg : Config) (c : Cat) (ctx : BootContext) : Word :=
  crc32 cfg (arrayBytes cfg c ctx)

/-- `serialise(c, ctx)`: `own_crc` freshly computed (20_memory.md R81). -/
def serialise (cfg : Config) (c : Cat) (ctx : BootContext) : List Byte :=
  arrayBytes cfg c ctx ++ encUint cfg.persistEndian cfg.activeBytes (cfg.activeEnc.of ctx.active) ++
    encWord cfg (computedOwnCrc cfg c ctx)

/-- A persisted selector number (R81): any number that encodes no selector decodes to None. An ACTIVE_ENC that
gives two selectors one number, which 00_scope.md R9 and R10 do not exclude, decodes to Bank0 before Bank1
before None (DESIGN CHOICE, unsafe, log 36). -/
def activeOf (cfg : Config) (v : Nat) : Active :=
  if v = cfg.activeEnc.bank0 then .bank0
  else if v = cfg.activeEnc.bank1 then .bank1
  else .none

/-- The descriptor at an offset of a record (R80, R81). -/
def descriptorAt (cfg : Config) (c : Cat) (bytes : List Byte) (off : Nat) : Descriptor :=
  { startAddr := wordAt cfg bytes off
    contentSize := wordAt cfg bytes (off + 4)
    partitionSize := wordAt cfg bytes (off + 8)
    crc32 := wordAt cfg bytes (off + 12)
    uploadedSize := match c with
      | .app => 0
      | .aux => wordAt cfg bytes (off + 16)
    uploadedCrc := match c with
      | .app => 0
      | .aux => wordAt cfg bytes (off + 20) }

/-- `deserialise(c, rec)`: no validity check; `own_crc` as stored (R81). -/
def deserialise (cfg : Config) (c : Cat) (bytes : List Byte) : BootContext :=
  { desc0 := descriptorAt cfg c bytes 0
    desc1 := descriptorAt cfg c bytes (arrLen c / 2)
    active := activeOf cfg
      (decUint cfg.persistEndian (slice bytes (arrLen c) (arrLen c + cfg.activeBytes)))
    ownCrc := wordAt cfg bytes (arrLen c + cfg.activeBytes) }

/-- `copy_status(c, rec)`: Empty, then Valid, then Invalid (44_descriptor_validator.md R263). -/
def copyStatus (cfg : Config) (c : Cat) (bytes : List Byte) : CopyStatus :=
  if bytes.all (· == cfg.erasedByte) then .empty
  else if wordAt cfg bytes (recLen cfg c - 4) = crc32 cfg (bytes.take (arrLen c)) then .valid
  else .invalid

/-- A descriptor of a fresh context (44_descriptor_validator.md R264). -/
def freshDescriptor (cfg : Config) (c : Cat) (b : Bank) : Descriptor :=
  { startAddr := (cfg.geometry c b).start
    contentSize := 0
    partitionSize := (cfg.geometry c b).size
    crc32 := sentinelCrc
    uploadedSize := 0
    uploadedCrc := match c with
      | .app => 0
      | .aux => sentinelCrc }

/-- The context with its own CRC recomputed (10_state.md R36). -/
def BootContext.sealed (cfg : Config) (c : Cat) (ctx : BootContext) : BootContext :=
  { ctx with ownCrc := computedOwnCrc cfg c ctx }

/-- `fresh(c)` (R264); its own CRC is the one its persist computes (log 21). -/
def fresh (cfg : Config) (c : Cat) : BootContext :=
  BootContext.sealed cfg c
    { desc0 := freshDescriptor cfg c .b0, desc1 := freshDescriptor cfg c .b1, active := .none, ownCrc := 0 }

/-- `pad` (20_memory.md R82): erased bytes up to the sector size. -/
def padding (cfg : Config) (c : Cat) : List Byte :=
  List.replicate ((cfg.sectorSize (cfg.dev c)).toNat - recLen cfg c) cfg.erasedByte

/-- The bytes written to a copy's sector (20_memory.md R82). -/
def copyImage (cfg : Config) (c : Cat) (ctx : BootContext) : List Byte :=
  serialise cfg c ctx ++ padding cfg c

end Sys2Proof.Machine
end

