-- ==== Sys2Proof/Machine/Descriptors.lean ====
section
/-! DEFINITION. The redundant descriptor validator (spec/44_descriptor_validator.md): LOAD, VALIDATE, SWAP,
FIX_CRC, COMMIT, SET_ACTIVE and the internal procedures they share. -/

namespace Sys2Proof.Machine

/-- "Every operation of this file except LOAD first requires LOADED[c] = 1" (44_descriptor_validator.md
R261). -/
def requireLoaded (c : Cat) : Act Unit := do
  let s ← get
  require (s.loaded c = true) (.state .notLoaded)

/-- `read_copy(c, which)`; `none` is a storage failure (R262). -/
def readCopy (c : Cat) (which : Copy) : Act (Option (List Byte)) := do
  let cfg := (← get).cfg
  memBind .pm (copyArea cfg c which)
  let bytes ← if ← memInit .pm then memRead .pm 0 (recLen cfg c) else pure none
  memClose .pm
  pure bytes

/-- The writing half of `persist_copy`: MemInit, MemErase, MemWrite, MemFlush, ended by the first failure
(R275). -/
def writeCopy (image : List Byte) : Act Bool := do
  if ← memInit .pm then
    if ← memErase .pm then
      if ← memWrite .pm image then
        pure (← memFlush .pm).isSome
      else pure false
    else pure false
  else pure false

/-- `persist_copy(c, which, ctx)` (R275). -/
def persistCopy (c : Cat) (which : Copy) (ctx : BootContext) : Act Bool := do
  let cfg := (← get).cfg
  memBind .pm (copyArea cfg c which)
  let rb ← if ← writeCopy (copyImage cfg c ctx) then memRead .pm 0 (recLen cfg c) else pure none
  memClose .pm
  pure (rb == some (serialise cfg c ctx))

/-- `BC[c].own_crc` recomputed (R277). -/
def State.sealBc (s : State) (c : Cat) : State := s.setBc c (BootContext.sealed s.cfg c (s.bc c))

/-- `persist_both(c)`: primary first; after a failed primary the backup is not touched (R277). -/
def persistBoth (c : Cat) : Act Bool := do
  modify fun s => s.sealBc c
  let ctx := (← get).bc c
  if ← persistCopy c .primary ctx then persistCopy c .backup ctx else pure false

/-! ## LOAD -/

/-- One bank's erase of R268. After a MemInit that fails its MemErase is not issued: R268 says only that a
failure "makes ok false and does not stop the sequence" (DESIGN CHOICE, unsafe, log 35); the other bank follows
either way. -/
def eraseBank (c : Cat) (b : Bank) : Act Bool := do
  let cfg := (← get).cfg
  memBind .pm (configuredArea cfg c b)
  let ok ← if ← memInit .pm then memErase .pm else pure false
  memClose .pm
  pure ok

/-- The end of LOAD (R265): `BC[c] <- ctx; LOADED[c] <- 1; outcome <- Loaded(src, ok)`. -/
def installContext (c : Cat) (ctx : BootContext) (src : LoadSource) (ok : Bool) : Act StepOutcome := do
  modify fun s => (s.setBc c ctx).setLoaded c
  pure (.loaded src ok)

/-- Neither copy is Valid and at least one is Empty: a fresh context is persisted (R265, R269 (b)). -/
def loadFresh (c : Cat) : Act StepOutcome := do
  let ctx := fresh (← get).cfg c
  modify fun s => s.setBc c ctx
  let ok ← persistBoth c
  installContext c ctx .fresh ok

/-- Both copies Invalid (R268): the banks erased by the configured geometry, a fresh context persisted. -/
def loadCorrupt (c : Cat) : Act StepOutcome := do
  modify fun s => s.markCorrupt c
  let ok0 ← eraseBank c .b0
  let ok1 ← eraseBank c .b1
  let ctx := fresh (← get).cfg c
  modify fun s => s.setBc c ctx
  let ok ← persistBoth c
  installContext c ctx .freshAfterErase (ok && (ok0 && ok1))

/-- The copy that is not taken is rewritten from the one that is (R266, R267). -/
def loadRepair (c : Cat) (ctx : BootContext) (src : LoadSource) (bad : Copy) : Act StepOutcome := do
  let ok ← persistCopy c bad ctx
  installContext c ctx src ok

/-- The case analysis of LOAD on the two copies as read (R265). -/
def loadCases (c : Cat) (p b : List Byte) : Act StepOutcome := do
  let cfg := (← get).cfg
  match copyStatus cfg c p, copyStatus cfg c b with
  | .valid, .valid =>
    if p = b then installContext c (deserialise cfg c p) .primary true
    else loadRepair c (deserialise cfg c p) .primary .backup
  | .valid, .invalid | .valid, .empty => loadRepair c (deserialise cfg c p) .primary .backup
  | .invalid, .valid | .empty, .valid => loadRepair c (deserialise cfg c b) .backup .primary
  | .invalid, .invalid => loadCorrupt c
  | .empty, .empty | .empty, .invalid | .invalid, .empty => loadFresh c

/-- The LOAD rule (R265): "if either read fails: Error(Storage, Read); nothing is changed". -/
def loadRule (c : Cat) : Act StepOutcome := do
  match ← readCopy c .primary with
  | none => raise (.storage .read)
  | some p => do
    match ← readCopy c .backup with
    | none => raise (.storage .read)
    | some b => loadCases c p b

/-- `LOAD c` (R265 to R269). -/
def execLoad (c : Cat) (s : State) : Host.Outcome State Fault Refusal := operationStep (loadRule c) s

/-! ## VALIDATE -/

/-- The CRC of a bank's span compared with its descriptor, with one recomputation where the first value
is 0 and does not match (R270). -/
def bankStatus (d : Descriptor) (n : Word) : Act BankStatus := do
  match ← regionCrc .pm n with
  | none => pure .invalid
  | some v1 =>
    if v1 = d.crc32 then pure .valid
    else if v1 = 0 then do
      let v2 ← regionCrc .pm n
      pure (if v2 = some d.crc32 then .valid else .invalid)
    else pure .invalid

/-- The VALIDATE rule (R270): the sentinel test first, with no storage access. -/
def validateRule (c : Cat) (b : Bank) : Act StepOutcome := do
  requireLoaded c
  let s ← get
  let d := s.desc c b
  if d.crc32 = sentinelCrc then pure (.status .empty)
  else do
    memBind .pm (bankArea s.cfg c b d)
    let st ← if ← memInit .pm then bankStatus d (span c d) else pure .invalid
    memClose .pm
    pure (.status st)

/-- `VALIDATE c, bank` (R270, R271). -/
def execValidate (c : Cat) (b : Bank) (s : State) : Host.Outcome State Fault Refusal :=
  operationStep (validateRule c b) s

/-! ## SWAP, FIX_CRC, COMMIT, SET_ACTIVE -/

/-- The toggle of SWAP: Bank0 becomes Bank1, Bank1 and None become Bank0 (R272). -/
def toggled : Active → Active
  | .bank0 => .bank1
  | .bank1 => .bank0
  | .none => .bank0

/-- `BC[c].active <- a` (10_state.md R37). -/
def State.setActive (s : State) (c : Cat) (a : Active) : State := s.setBc c { s.bc c with active := a }

/-- The SWAP rule (R272). -/
def swapRule (c : Cat) : Act StepOutcome := do
  requireLoaded c
  modify fun s => s.setActive c (toggled (s.bc c).active)
  let a := ((← get).bc c).active
  let ok ← persistBoth c
  pure (.swapped a ok)

/-- `SWAP c` (R272, R273). -/
def execSwap (c : Cat) (s : State) : Host.Outcome State Fault Refusal := operationStep (swapRule c) s

/-- The CRC of the first `size` bytes of a bank, through SB_PM (40_crc_engine.md R150;
44_descriptor_validator.md R274); any storage failure ends the operation with `Storage(Read)`
(60_exceptions.md R306). -/
def bankCrc (c : Cat) (b : Bank) (size : Word) : Act Word := do
  let s ← get
  let d := s.desc c b
  memBind .pm (bankArea s.cfg c b d)
  let v ← if ← memInit .pm then regionCrc .pm (sizeOperand d size) else pure none
  memClose .pm
  match v with
  | some v => pure v
  | none => raise (.storage .read)

/-- The FIX_CRC rule (R274). -/
def fixCrcRule (c : Cat) (b : Bank) (size : Word) : Act StepOutcome := do
  requireLoaded c
  let v ← bankCrc c b size
  modify fun s => s.setDesc c b { s.desc c b with crc32 := v }
  let ok ← persistBoth c
  pure (.fixed v ok)

/-- `FIX_CRC c, bank, size` (R274). -/
def execFixCrc (c : Cat) (b : Bank) (size : Word) (s : State) : Host.Outcome State Fault Refusal :=
  operationStep (fixCrcRule c b size) s

/-- The COMMIT rule (R276). -/
def commitRule (c : Cat) : Act StepOutcome := do
  requireLoaded c
  let ok ← persistBoth c
  pure (.committed ok)

/-- `COMMIT c` (R276). -/
def execCommit (c : Cat) (s : State) : Host.Outcome State Fault Refusal := operationStep (commitRule c) s

/-- The SET_ACTIVE rule (R279). -/
def setActiveRule (c : Cat) (a : Active) : Act StepOutcome := do
  requireLoaded c
  modify fun s => s.setActive c a
  pure .proceed

/-- `SET_ACTIVE c, sel` (R279). -/
def execSetActive (c : Cat) (a : Active) (s : State) : Host.Outcome State Fault Refusal :=
  operationStep (setActiveRule c a) s

end Sys2Proof.Machine
end

