-- ==== Sys2Proof/Machine/CrcUnit.lean ====
section
/-! DEFINITION. The instructions of the CRC unit (spec/40_crc_engine.md): the three micro-operations on
CRC_ACC and the two operations of the port. -/

namespace Sys2Proof.Machine

/-- `CRC_INIT` (40_crc_engine.md R142): `CRC_ACC <- CRC_INIT`. -/
def execCrcInit (s : State) : Host.Outcome State Fault Refusal :=
  .next { s with crcAcc := some s.cfg.crcInit }

/-- `CRC_UPDATE(b)` (R143). CRC_ACC must hold a value (10_state.md R41, R46). -/
def execCrcUpdate (b : Byte) (s : State) : Host.Outcome State Fault Refusal :=
  match s.crcAcc with
  | some acc => .next { s with crcAcc := some (crcUpdate s.cfg acc b) }
  | none => .fault (.valueless .crcAcc)

/-- `CRC_FINAL` (R144): "CRC_ACC holds no value afterwards". Its result is reported in OUTCOME as
`Crc(v)` (DESIGN CHOICE, unsafe, log 13). -/
def execCrcFinal (s : State) : Host.Outcome State Fault Refusal :=
  match s.crcAcc with
  | some acc => .next (finish (.crc (crcFinal s.cfg acc)) s)
  | none => .fault (.valueless .crcAcc)

/-- The CRC_REGION rule (R150). -/
def crcRegionRule (c : Cat) (b : Bank) (size : Word) : Act StepOutcome := do
  requireLoaded c
  let v ← bankCrc c b size
  pure (.crc v)

/-- `CRC_REGION cat, bank, size` (R150). -/
def execCrcRegion (c : Cat) (b : Bank) (size : Word) (s : State) : Host.Outcome State Fault Refusal :=
  operationStep (crcRegionRule c b size) s

/-- `buffer[0..size)` (R151, which supplies exactly `size` bytes): a byte of it beyond those supplied is a
FREE VALUE, the draws from the `ctr`-th on (DESIGN CHOICE, safe, log 17). -/
def bufferOperand (ctr n : Nat) (buffer : List Byte) : List Byte :=
  buffer.take n ++ freeBytes ctr (n - buffer.length)

/-- The CRC_BUF rule (R151): the CRC of `buffer[0..size)`. -/
def crcBufRule (size : Word) (buffer : List Byte) : Act StepOutcome := do
  let s ← get
  set (s.draw (size.toNat - buffer.length))
  pure (.crc (crc32 s.cfg (bufferOperand s.freeCtr size.toNat buffer)))

/-- `CRC_BUF size, buffer` (R151). -/
def execCrcBuf (size : Word) (buffer : List Byte) (s : State) : Host.Outcome State Fault Refusal :=
  operationStep (crcBufRule size buffer) s

end Sys2Proof.Machine
end

