-- ==== Sys2Proof/Machine/Dispatch.lean ====
section
/-! DEFINITION. One arm per row of spec/opcode_table.json. -/

namespace Sys2Proof.Machine

open Sys2Proof

def exec (i : Instr) (s : State) : Host.Outcome State Fault Refusal :=
  match i with
  | .rrq length name => Sys2Proof.Machine.execRrq length name s
  | .wrq name => Sys2Proof.Machine.execWrq name s
  | .data block payload => Sys2Proof.Machine.execData block payload s
  | .ack block => Sys2Proof.Machine.execAck block s
  | .error code => Sys2Proof.Machine.execError code s
  | .cmd code tail => Sys2Proof.Machine.execCmd code tail s
  | .debug => Sys2Proof.Machine.execDebug s
  | .cmdBoot => Sys2Proof.Machine.execCmdBoot s
  | .cmdReset => Sys2Proof.Machine.execCmdReset s
  | .cmdSwap => Sys2Proof.Machine.execCmdSwap s
  | .cmdBootInfo => Sys2Proof.Machine.execCmdBootInfo s
  | .cmdPowerOn => Sys2Proof.Machine.execCmdPowerOn s
  | .cmdPowerOff => Sys2Proof.Machine.execCmdPowerOff s
  | .cmdEnd => Sys2Proof.Machine.execCmdEnd s
  | .cmdSpiEnd => Sys2Proof.Machine.execCmdSpiEnd s
  | .cmdTriggerWatchdog => Sys2Proof.Machine.execCmdTriggerWatchdog s
  | .cmdEraseSpi => Sys2Proof.Machine.execCmdEraseSpi s
  | .cmdSetBank0 => Sys2Proof.Machine.execCmdSetBank0 s
  | .cmdSetBank1 => Sys2Proof.Machine.execCmdSetBank1 s
  | .cmdCrc value => Sys2Proof.Machine.execCmdCrc value s
  | .sessionReset => Sys2Proof.Machine.execSessionReset s
  | .load c => Sys2Proof.Machine.execLoad c s
  | .validate c bank => Sys2Proof.Machine.execValidate c bank s
  | .swap c => Sys2Proof.Machine.execSwap c s
  | .fixCrc c bank size => Sys2Proof.Machine.execFixCrc c bank size s
  | .commit c => Sys2Proof.Machine.execCommit c s
  | .crcRegion c bank size => Sys2Proof.Machine.execCrcRegion c bank size s
  | .crcBuf size buffer => Sys2Proof.Machine.execCrcBuf size buffer s
  | .setActive c sel => Sys2Proof.Machine.execSetActive c sel s
  | .frameIn => Sys2Proof.Machine.execFrameIn s
  | .empty => Sys2Proof.Machine.execEmpty s
  | .crcInit => Sys2Proof.Machine.execCrcInit s
  | .crcUpdate b => Sys2Proof.Machine.execCrcUpdate b s
  | .crcFinal => Sys2Proof.Machine.execCrcFinal s

end Sys2Proof.Machine
end

