-- ==== Sys2Proof/Machine/Fetch.lean ====
section
/-! DEFINITION. How the block's next step is found (00_scope.md R7, R13; 10_state.md R24): the first event
presented, decoded. -/

namespace Sys2Proof.Machine

/-- What the front of the inbox asks for. -/
inductive Fetched where
  /-- An instruction, with the state it runs in. -/
  | run (i : Instr) (s : State)
  /-- No instruction: the state this step ends in. -/
  | done (s : State)
  deriving DecidableEq, Repr

/-- The host writes FB and FLEN (10_state.md R21), which hold a value from then on (R45): the bytes beyond the frame keep what they held, and only
the first 516 of a longer frame are kept. -/
def present (bytes : List Byte) (s : State) : State :=
  { s with fb := bytes.take maxFrame ++ s.fb.drop bytes.length, flen := bytes.length, framePresented := true }

/-- The host takes the front frame of TXQ (10_state.md R23). -/
def takeFront (s : State) : State := { s with txq := s.txq.tail }

/-- A refused operation word (30_encoding.md R126). -/
def refuseOperation (s : State) : State := finish (.error (.state .badOperation)) s

/-- The first event presented, decoded. A frame that the decoder rejects is the bare FRAME_IN, which
reports the error (43_session_driver.md R230); with no event presented the block waits (R235). -/
def fetch (s : State) : Fetched :=
  match s.inbox with
  | [] => .done s
  | e :: rest =>
    let t := { s with inbox := rest }
    match e with
    | .frame bytes =>
      match decode s.cfg (.frame bytes) with
      | .ok i => .run i (present bytes t)
      | .error _ => .run .frameIn (present bytes t)
    | .operation w buffer =>
      match decode s.cfg (.operation w buffer) with
      | .ok i => .run i t
      | .error _ => .done (refuseOperation t)
    | .takeFrame => .done (takeFront t)
    | .powerCycle => .done t.powerUp

/-- Whether an event is a frame, which is parsed in an open session only (43_session_driver.md R230). -/
def Event.needsSession : Event → Bool
  | .frame _ => true
  | .operation _ _ => false
  | .takeFrame => false
  | .powerCycle => false

/-- A row's word placed where the next step fetches it (log 2): its event comes first and, because a frame
presented with no session open "is not parsed at all" (43_session_driver.md R230), a frame's session is
open. -/
def placeWord (s : State) (nbits w : Nat) : State :=
  { s with
    inbox := tableEvent nbits w :: s.inbox
    sessionOpen := s.sessionOpen || Event.needsSession (tableEvent nbits w) }

end Sys2Proof.Machine
end

