-- ==== Sys2Proof/Machine/Boot.lean ====
section
/-! DEFINITION. The startup decision (spec/44_descriptor_validator.md R290), a pure function the caller
evaluates; no step of the block executes it (00_scope.md R5 (h)). -/

namespace Sys2Proof.Machine

/-- What the surrounding boot loop does (44_descriptor_validator.md R290). -/
inductive BootDecision where
  | update
  | boot (b : Bank)
  deriving DecidableEq, Repr

/-- `boot_decision(v0, v1, active, request_update, force_update)` (R290, R291). -/
def bootDecision (v0 v1 : BankStatus) (active : Active) (requestUpdate forceUpdate : Bool) : BootDecision :=
  if forceUpdate = true ∨ requestUpdate = true ∨ v0 = .invalid ∨ v1 = .invalid then .update
  else if active = .bank0 ∧ v0 = .valid then .boot .b0
  else if active = .bank1 ∧ v1 = .valid then .boot .b1
  else if active = .bank0 ∧ v1 = .valid then .boot .b1
  else if active = .bank1 ∧ v0 = .valid then .boot .b0
  else .update

end Sys2Proof.Machine
end

