-- ==== Sys2Proof/Safety.lean ====
section
/-! DEFINITION. The terms claims use: one byte of a device, what the oracles do, when a frame reaches its
rule, what a category's copies hold, and the invariant of the machine. -/

namespace Sys2Proof.Machine

/-! ## Storage -/

/-- `Store[dev][a]` (20_memory.md R60): the read of one byte. -/
def State.byte (s : State) (d : Device) (a : Nat) : Byte := Memory.read (s.store d) a

/-- An address lies in an area (R61). -/
abbrev Area.covers (a : Area) (d : Device) (x : Nat) : Prop :=
  a.dev = d ∧ a.start.toNat ≤ x ∧ x < a.start.toNat + a.size.toNat

/-- Every coming storage call completes and no coming read gets a bit wrong: STORAGE_FAULT at its default
"never" (00_scope.md R9) and no read oracle (93 U7). -/
abbrev State.storageAnswers (s : State) : Prop :=
  (∀ f ∈ s.storageFates, f = .completes) ∧ ∀ m ∈ s.readGlitches, m = []

/-- Power is not lost inside a coming storage call (70_reset_and_hazards.md R345). -/
abbrev State.powerHolds (s : State) : Prop :=
  ∀ f ∈ s.storageFates, f ≠ .lostBefore ∧ f ≠ .lostDuring

/-- The bytes of a context copy's record (44_descriptor_validator.md R262). -/
def State.record (s : State) (c : Cat) (which : Copy) : List Byte :=
  Memory.readBytes (s.store (s.cfg.dev c)) (copyAddr s.cfg c which).toNat (recLen s.cfg c)

/-- `m` holds a context's image in the sector of each copy listed and what `old` holds elsewhere
(20_memory.md R82; 44_descriptor_validator.md R275). -/
def holdsCopies (cfg : Config) (c : Cat) (ctx : BootContext) (copies : List Copy) (old m : Memory) : Prop :=
  (∀ which ∈ copies, ∀ i b, (copyImage cfg c ctx)[i]? = some b →
    Memory.read m ((copyAddr cfg c which).toNat + i) = b) ∧
  ∀ a, (∀ which ∈ copies, ¬ (copyArea cfg c which).covers (cfg.dev c) a) → Memory.read m a = Memory.read old a

/-! ## Frames and the session -/

/-- A frame of a kind reaches its kind rule: a session is open and the direction gate lets it pass
(43_session_driver.md R230, 41_frame_parser.md R164). -/
abbrev State.reaches (s : State) (k : Kind) : Prop :=
  s.sessionOpen = true ∧ ¬ (s.dir = .read ∧ Kind.gated k = true)

/-- A request for a target passes its state tests (R165, R170). -/
abbrev State.requests (s : State) (name : List Byte) (t : Target) : Prop :=
  targetNamed s.cfg name = some t ∧ s.tc.inProgress = false ∧ s.loaded t.cat = true

/-- The state after a context reset that closes the session (42_command_dispatch.md R201,
60_exceptions.md R305, R306, R308), written out register by register. -/
def State.ended (s : State) : State :=
  { s with
    tc := { inProgress := false, targetId := none, lastBlock := 0, expectedSize := 0, crcReceived := false }
    dir := .noDir
    rbOff := 0
    sbTx := if s.sbTx.bound then { s.sbTx with bound := false, cur := 0 } else s.sbTx
    sessionOpen := false }

/-- The state after a frame that is rejected with no effect (60_exceptions.md R303, R307). -/
def State.rejected (s : State) (e : Err) : State :=
  { s with emptyReads := false, outcome := .error e, crcAcc := none }

/-- The state after an operation that is refused with no effect (30_encoding.md R126;
44_descriptor_validator.md R261). -/
def State.refused (s : State) (e : Err) : State := { s with outcome := .error e, crcAcc := none }

/-- SB_TX as an accepted request binds it (20_memory.md R62; 41_frame_parser.md R165, R170). -/
def State.boundTx (s : State) (name : List Byte) (t : Target) : Handle :=
  { bound := true, area := requestArea s name t, cur := 0 }

/-- A handle that is closed (20_memory.md R70). -/
abbrev Handle.isClosed (x : Handle) : Prop := x.bound = false ∧ x.cur = 0

end Sys2Proof.Machine

namespace Sys2Proof

/-- The rows a frame decodes to (30_encoding.md R118). -/
def Instr.isFrame : Instr → Bool
  | .rrq _ _ | .wrq _ | .data _ _ | .ack _ | .error _ | .cmd _ _ | .debug => true
  | .cmdBoot | .cmdReset | .cmdSwap | .cmdBootInfo | .cmdPowerOn | .cmdPowerOff | .cmdEnd | .cmdSpiEnd
  | .cmdTriggerWatchdog | .cmdEraseSpi | .cmdSetBank0 | .cmdSetBank1 | .cmdCrc _ => true
  | .sessionReset | .load _ | .validate _ _ | .swap _ | .fixCrc _ _ _ | .commit _ | .crcRegion _ _ _
  | .crcBuf _ _ | .setActive _ _ => false
  | .frameIn | .empty | .crcInit | .crcUpdate _ | .crcFinal => false

/-- The rows of the operation port (30_encoding.md R125). -/
def Instr.isOperation : Instr → Bool
  | .sessionReset | .load _ | .validate _ _ | .swap _ | .fixCrc _ _ _ | .commit _ | .crcRegion _ _ _
  | .crcBuf _ _ | .setActive _ _ => true
  | .rrq _ _ | .wrq _ | .data _ _ | .ack _ | .error _ | .cmd _ _ | .debug => false
  | .cmdBoot | .cmdReset | .cmdSwap | .cmdBootInfo | .cmdPowerOn | .cmdPowerOff | .cmdEnd | .cmdSpiEnd
  | .cmdTriggerWatchdog | .cmdEraseSpi | .cmdSetBank0 | .cmdSetBank1 | .cmdCrc _ => false
  | .frameIn | .empty | .crcInit | .crcUpdate _ | .crcFinal => false

/-- The twelve terminal rows with their commands (42_command_dispatch.md R201, R210 to R221). -/
def Instr.terminal : List (Instr × Cmd) :=
  [(.cmdBoot, .boot), (.cmdReset, .reset), (.cmdSwap, .swap), (.cmdBootInfo, .bootInfo),
   (.cmdPowerOn, .powerOn), (.cmdPowerOff, .powerOff), (.cmdEnd, .endTransfer), (.cmdSpiEnd, .spiEnd),
   (.cmdTriggerWatchdog, .triggerWatchdog), (.cmdEraseSpi, .eraseSpi), (.cmdSetBank0, .setBank0),
   (.cmdSetBank1, .setBank1)]

end Sys2Proof

namespace Sys2Proof.Machine

/-! ## Runs -/

/-- Instructions one after another. -/
def execAll : List Instr → State → Host.Outcome State Fault Refusal
  | [], s => .next s
  | i :: is, s =>
    match exec i s with
    | .next t => execAll is t
    | .fault f => .fault f
    | .refused r => .refused r

/-! ## The invariant -/

/-- The invariant of the machine. It holds at reset and every step keeps it. -/
structure Inv (s : State) : Prop where
  /-- The record is one a block is built from (00_scope.md R10; 93 U19). -/
  configuration : s.cfg.buildable
  /-- The devices are in the one canonical form. -/
  flashCanonical : Memory.wf s.flash
  spiCanonical : Memory.wf s.spi
  /-- `FB` is 516 bytes (10_state.md R21). -/
  frameBuffer : s.fb.length = 516
  /-- "`DIR = NoDir` if and only if `TC.in_progress = false`" (R27). -/
  direction : s.dir = .noDir ↔ s.tc.inProgress = false
  /-- A closed context is the empty context (R26). -/
  emptyContext : s.tc.inProgress = false → s.tc = TransferContext.blank
  /-- An open transfer has a target, of a loaded category (R26, R46; 41_frame_parser.md R165, R170). -/
  target : s.tc.inProgress = true → ∃ t, s.tc.targetId = some t ∧ s.loaded t.cat = true
  /-- The transfer handle is bound exactly while a transfer is open (R26; 20_memory.md R70). -/
  transferHandle : s.sbTx.bound = s.tc.inProgress
  /-- A bound area lies in the address space, and its cursor in the area (20_memory.md R61, R65). -/
  transferArea : s.sbTx.bound = true → s.sbTx.area.fits = true ∧ s.sbTx.cur.toNat ≤ s.sbTx.area.size.toNat
  transferCursor : s.sbTx.bound = false → s.sbTx.cur = 0
  /-- No validator operation is under way between steps (44_descriptor_validator.md R260). -/
  validatorHandle : s.sbPm.bound = false ∧ s.sbPm.cur = 0
  /-- `RB_OFF` is 0 outside the read direction (10_state.md R31). -/
  offsetAtRest : s.dir ≠ .read → s.rbOff = 0
  /-- `RB_OFF` counts whole blocks but for the last one (43_session_driver.md R240), inside the area. -/
  offset : s.dir = .read → 0 < s.tc.expectedSize.toNat ∧ s.sbTx.cur = 0 ∧
    s.rbOff.toNat = min (512 * (s.tc.lastBlock.toNat + 1)) s.tc.expectedSize.toNat ∧
    s.rbOff.toNat ≤ s.sbTx.area.size.toNat
  /-- Only a write transfer receives its finalising CRC (42_command_dispatch.md R205). -/
  finalising : s.tc.crcReceived = true → s.dir = .write
  /-- A write transfer leaves the expected size 0 and has written at most 512 bytes a block (41_frame_parser.md
  R170, R175). -/
  written : s.dir = .write → s.tc.expectedSize = 0 ∧ s.sbTx.cur.toNat ≤ 512 * s.tc.lastBlock.toNat
  /-- `EMPTY_READS` is set in an open session only (43_session_driver.md R232). -/
  emptyReads : s.emptyReads = true → s.sessionOpen = true
  /-- `FORCE_UPDATE` and `CORRUPT[App]` are set together (44_descriptor_validator.md R268). -/
  forced : s.forceUpdate = s.corruptApp
  /-- "no value of it survives a step" (10_state.md R41). -/
  noAccumulator : s.crcAcc = none
  /-- Only the auxiliary category has the two upload fields (R34; log 12). -/
  appFields : ∀ b, (s.desc .app b).uploadedSize = 0 ∧ (s.desc .app b).uploadedCrc = 0

end Sys2Proof.Machine
end

