-- ==== Sys2Proof/Certificates/Slice0/Obligations.lean ====
section
/-! DEFINITION. The statements for the provers, one per obligation of OBLIGATIONS.json, in its order. Where a
clause rests on a choice of the model and not on the spec, its docstring names the log entry. -/

open Sys2Proof Sys2Proof.Machine

/-! ## Steps, decoding and encoding -/

/-- A step runs the instruction that the first event decodes to: a frame is first written to FB and FLEN (the
bytes beyond it keep what they held, 10_state.md R21), and `step` adds nothing else around `exec`. That the
events stand in a queue, one taken a step from its front, is the model's choice (log 2). -/
def Obligations.StepRunsDecodedInstruction : Prop :=
  ∀ (s : State) (e : Event) (rest : List Event) (i : Instr),
    s.inbox = e :: rest → decode s.cfg e = .ok i →
    (∀ bytes, e = .frame bytes → step s =
      exec i { s with
        inbox := rest, fb := bytes.take 516 ++ s.fb.drop bytes.length, flen := bytes.length, framePresented := true }) ∧
    (∀ w buffer, e = .operation w buffer → step s = exec i { s with inbox := rest })

/-- What the other events do: a malformed frame runs FRAME_IN, which reports its error; the host takes the
front of TXQ (10_state.md R23); a reset leaves what R45 says; with no event presented the block waits
(43_session_driver.md R235). The model's choices in it: the queue of events (log 2); that a take and a reset
are events with no instruction (log 30); that a take from an empty TXQ changes nothing (log 27); that a step
with no event changes nothing (log 3). -/
def Obligations.OtherEvents : Prop :=
  ∀ (s : State) (rest : List Event),
    (∀ bytes x, s.inbox = .frame bytes :: rest → decode s.cfg (.frame bytes) = .error x →
      step s = exec .frameIn { s with
        inbox := rest, fb := bytes.take 516 ++ s.fb.drop bytes.length, flen := bytes.length, framePresented := true }) ∧
    (s.inbox = .takeFrame :: rest → step s = .next { s with inbox := rest, txq := s.txq.tail }) ∧
    (s.inbox = .powerCycle :: rest → step s = .next { s.powerUp with inbox := rest }) ∧
    (s.inbox = [] → step s = .next s)

/-- "An operation code of 0x00 or above 0x09, a non-zero unused field, or `sel = 3`, is refused": no register
but OUTCOME changes (30_encoding.md R126; that CRC_ACC then holds no value is R41). -/
def Obligations.BadOperationsRefused : Prop :=
  ∀ (s : State) (w : BitVec 48) (buffer : List Byte) (rest : List Event),
    s.inbox = .operation w buffer :: rest →
    (let code := (w.extractLsb' 40 8).toNat
     let sel := (w.extractLsb' 34 2).toNat
     code = 0 ∨ 9 < code ∨ w.extractLsb' 36 4 ≠ 0 ∨ sel = 3 ∨ (code ≠ 9 ∧ sel ≠ 0) ∨
     (code ∈ [1, 8] ∧ w.getLsbD 33 = true) ∨
     (code ∈ [1, 2, 4, 6, 8, 9] ∧ w.getLsbD 32 = true) ∨
     (code ∈ [1, 2, 3, 4, 6, 9] ∧ w.extractLsb' 0 32 ≠ 0)) →
    step s = .next ({ s with inbox := rest }.refused (.state .badOperation))

/-- Decoding the encoding of a well-formed instruction gives the instruction back, for every row that has an
encoding and every operand value it admits (30_encoding.md R102 to R118, R125). -/
def Obligations.DecodeOfEncode : Prop :=
  ∀ (cfg : Config) (i : Instr) (e : Event),
    cfg.commandCodesOk → i.wf cfg → encode cfg i = some e → decode cfg e = .ok i

/-- An operation word has one meaning: whatever word decodes is the encoding of what it decodes to, so no bit
of the 48 is ignored (30_encoding.md R125, R126). The buffer beside the word belongs to CRC_BUF alone. -/
def Obligations.OperationWordsAreExact : Prop :=
  ∀ (cfg : Config) (w : BitVec 48) (buffer : List Byte) (i : Instr),
    decode cfg (.operation w buffer) = .ok i →
    encode cfg i = some (.operation w (if (w.extractLsb' 40 8).toNat = 8 then buffer else []))

/-- "The bytes that rules R102, R103 and R107 mark 'ignored' may hold any value and have no effect. The message
bytes of an Error frame have no effect" (30_encoding.md R117), and so the bytes of a Debug frame (R109). -/
def Obligations.IgnoredBytesHaveNoEffect : Prop :=
  ∀ (cfg : Config) (junk : List Byte),
    (∀ length name, nameOk name → 7 + name.length + junk.length ≤ 516 →
      decode cfg (.frame ([0, 1] ++ encBe32 length ++ name ++ [0] ++ junk)) = .ok (.rrq length name)) ∧
    (∀ name, nameOk name → 3 + name.length + junk.length ≤ 516 →
      decode cfg (.frame ([0, 2] ++ name ++ [0] ++ junk)) = .ok (.wrq name)) ∧
    (∀ code, 4 + junk.length ≤ 128 → decode cfg (.frame ([0, 5] ++ encBe16 code ++ junk)) = .ok (.error code)) ∧
    (∀ p ∈ Instr.terminal, cfg.commandCodesOk → 4 + junk.length ≤ 516 →
      decode cfg (.frame ([0, 6] ++ encBe16 (cfg.cmdCodes.of p.2) ++ junk)) = .ok p.1) ∧
    (∀ value, cfg.commandCodesOk → 8 + junk.length ≤ 516 →
      decode cfg (.frame ([0, 6] ++ encBe16 cfg.cmdCodes.crc ++ encBe32 value ++ junk)) = .ok (.cmdCrc value)) ∧
    (2 + junk.length ≤ 516 → decode cfg (.frame ([0, 7] ++ junk)) = .ok .debug)

/-- Words written out from the spec's encodings decode to the instructions they stand for (30_encoding.md R115,
R125; 41_frame_parser.md R165, R170, R175, R180, R185, R190). -/
def Obligations.WordsOfTheSpec : Prop :=
  decode Config.default (.frame [0x00, 0x01, 0, 0, 0x02, 0x58, 0x73, 0x70, 0x69, 0x30, 0]) =
      .ok (.rrq 600 [0x73, 0x70, 0x69, 0x30]) ∧
  decode Config.default (.frame [0x00, 0x02, 0x61, 0x70, 0x70, 0x72, 0x6F, 0x6D, 0x31, 0]) =
      .ok (.wrq [0x61, 0x70, 0x70, 0x72, 0x6F, 0x6D, 0x31]) ∧
  decode Config.default (.frame [0x00, 0x03, 0x00, 0x01, 0xAA, 0xBB]) = .ok (.data 1 [0xAA, 0xBB]) ∧
  decode Config.default (.frame [0x00, 0x04, 0x00, 0x00]) = .ok (.ack 0) ∧
  decode Config.default (.frame [0x00, 0x05, 0x00, 0x02, 0x62, 0x61, 0x64, 0x00]) = .ok (.error 2) ∧
  decode Config.default (.frame [0x00, 0x06, 0x00, 0x0D, 0xBF, 0x25, 0x02, 0x48]) = .ok (.cmdCrc 0xBF250248) ∧
  decode Config.default (.frame [0x00, 0x06, 0x00, 0x07]) = .ok .cmdEnd ∧
  decode Config.default (.operation 0x020200000000 []) = .ok (.load .aux) ∧
  decode Config.default (.operation 0x030100000000 []) = .ok (.validate .app .b1) ∧
  decode Config.default (.operation 0x090A00000000 []) = .ok (.setActive .aux .bank1) ∧
  decode Config.default (.operation 0x090400000000 []) = .ok (.setActive .app .bank0)

/-- `cstr(B, i, budget, len)`: NoName exactly where no byte of the window is 0, else the bytes before the first
0 (30_encoding.md R108), for a length that lies inside the buffer. -/
def Obligations.NameExtraction : Prop :=
  ∀ (B : List Byte) (i budget len : Nat), len ≤ B.length →
    (cstr B i budget len = none ↔ ∀ j, i ≤ j → j < min len (i + budget) → B[j]? ≠ some 0) ∧
    ∀ name, cstr B i budget len = some name ↔
      ∃ j, i ≤ j ∧ j < min len (i + budget) ∧ B[j]? = some 0 ∧
        (∀ k, i ≤ k → k < j → B[k]? ≠ some 0) ∧ name = (B.take j).drop i

/-- The front end on FB and FLEN, which hold a frame, reports the first test that fails, in the order of
60_exceptions.md R302 (orders 3 to 7), and none of them changes anything (R303, R307). -/
def Obligations.FrontEndOrder : Prop :=
  ∀ (s : State), s.framePresented = true → s.sessionOpen = true → 0 < s.flen → s.cfg.errorReply = .none →
    if s.flen = 1 ∨ 516 < s.flen then exec .frameIn s = .next (s.rejected (.framing .size))
    else if s.fb.getD 0 0 ≠ 0 then exec .frameIn s = .next (s.rejected (.framing .sentinel))
    else if s.fb.getD 1 0 = 0 ∨ 7 < s.fb.getD 1 0 then exec .frameIn s = .next (s.rejected (.framing .opcode))
    else if s.dir = .read ∧ s.fb.getD 1 0 ∈ [1, 2, 3, 6] then
      exec .frameIn s = .next (s.rejected (.state .wrongDirection))
    else if (s.fb.getD 1 0 = 1 ∧ s.flen < 7) ∨ (s.fb.getD 1 0 = 2 ∧ s.flen < 3) ∨
        (s.fb.getD 1 0 = 3 ∧ s.flen < 4) ∨ (s.fb.getD 1 0 = 4 ∧ s.flen ≠ 4) ∨
        (s.fb.getD 1 0 = 5 ∧ (s.flen < 4 ∨ 128 < s.flen)) ∨ (s.fb.getD 1 0 = 6 ∧ s.flen < 4) then
      exec .frameIn s = .next (s.rejected (.framing .size))
    else (s.fb.getD 1 0 = 1 → cstr s.fb 6 8 s.flen = none →
        exec .frameIn s = .next (s.rejected (.framing .name))) ∧
      (s.fb.getD 1 0 = 2 → cstr s.fb 2 8 s.flen = none →
        exec .frameIn s = .next (s.rejected (.framing .name)))

/-! ## The CRC unit -/

/-- CRC_INIT and CRC_UPDATE on the accumulator, the eight shifts written out (40_crc_engine.md R142, R143). -/
def Obligations.CrcInitAndUpdate : Prop :=
  ∀ (s : State) (b : Byte) (acc : Word),
    exec .crcInit s = .next { s with crcAcc := some s.cfg.crcInit } ∧
    (s.crcAcc = some acc →
      exec (.crcUpdate b) s = .next { s with
        crcAcc := some
          ((fun a : Word => if a.getLsbD 31 = true then (a <<< 1) ^^^ s.cfg.crcPoly else a <<< 1)^[8]
            (acc ^^^ ((if s.cfg.crcRefIn = true then b.reverse else b).setWidth 32 <<< 24))) })

/-- CRC_FINAL returns `(CRC_REFOUT ? reverse32(CRC_ACC) : CRC_ACC) xor CRC_XOROUT` and CRC_ACC holds no value
afterwards (40_crc_engine.md R144); that the result stands in OUTCOME as Crc(v) is the model's choice (log 13).
CRC_UPDATE and CRC_FINAL with no value in CRC_ACC are faults of the model (10_state.md R46). -/
def Obligations.CrcFinalAndNoValue : Prop :=
  ∀ (s : State) (b : Byte) (acc : Word),
    (s.crcAcc = some acc → exec .crcFinal s = .next { s with
      crcAcc := none
      outcome := .crc ((if s.cfg.crcRefOut = true then acc.reverse else acc) ^^^ s.cfg.crcXorOut) }) ∧
    (s.crcAcc = none → exec (.crcUpdate b) s = .fault (.valueless .crcAcc) ∧
      exec .crcFinal s = .fault (.valueless .crcAcc))

/-- `crc32(bytes)` is CRC_INIT, CRC_UPDATE of each byte in order, CRC_FINAL, and takes the ten values R145
lists under the default parameters. -/
def Obligations.Crc32Values : Prop :=
  (∀ cfg bytes, crc32 cfg bytes = crcFinal cfg (bytes.foldl (crcUpdate cfg) cfg.crcInit)) ∧
  crc32 Config.default [] = 0x00000000 ∧
  crc32 Config.default [0x00] = 0xD202EF8D ∧
  crc32 Config.default [0xFF] = 0xFF000000 ∧
  crc32 Config.default [0x61] = 0xE8B7BE43 ∧
  crc32 Config.default [0x31, 0x32, 0x33, 0x34, 0x35, 0x36, 0x37, 0x38, 0x39] = 0xCBF43926 ∧
  crc32 Config.default [0xFF, 0xFF, 0xFF, 0xFF] = 0xFFFFFFFF ∧
  crc32 Config.default [0x00, 0x00, 0x00, 0x00] = 0x2144DF1C ∧
  crc32 Config.default (List.replicate 32 0xFF) = 0xFF6CAB0B ∧
  crc32 Config.default (List.replicate 48 0xFF) = 0xE61817DE ∧
  crc32 Config.default (List.replicate 32 0x00) = 0x190A55AD

/-- The three micro-operations run one after another compute `crc32` (R145). That the result stands in OUTCOME
is the model's choice (log 13). -/
def Obligations.MicroOperationsComputeCrc32 : Prop :=
  ∀ (s : State) (bytes : List Byte),
    execAll (.crcInit :: bytes.map .crcUpdate ++ [.crcFinal]) s =
      .next { s with outcome := .crc (crc32 s.cfg bytes), crcAcc := none }

/-- "A model may use either form or a 256-entry table; the three must agree on every input" (R146), with the
constant and the worked trace of R146. -/
def Obligations.CrcFormsAgree : Prop :=
  (∀ (cfg : Config), cfg.crcRefIn = true → cfg.crcRefOut = true →
    (∀ acc b, reflectedUpdate cfg acc.reverse b = (crcUpdate cfg acc b).reverse) ∧
    (∀ acc, crcFinal cfg acc = acc.reverse ^^^ cfg.crcXorOut) ∧
    ∀ bytes, reflectedCrc32 cfg bytes = crc32 cfg bytes ∧ tableCrc32 cfg bytes = crc32 cfg bytes) ∧
  (0x04C11DB7 : Word).reverse = 0xEDB88320 ∧
  ((0xFFFFFFFF : Word) ^^^ 0x31 = 0xFFFFFFCE) ∧
  (List.range 8).map (fun k => reflectedRounds Config.default (k + 1) 0xFFFFFFCE) =
    [0x7FFFFFE7, 0xD2477CD3, 0x849B3D49, 0xAFF51D84, 0x57FA8EC2, 0x2BFD4761, 0xF8462090, 0x7C231048]

/-- The streaming law and the residue of the default parameters (R147 (a), (b)). -/
def Obligations.CrcStreamingAndResidue : Prop :=
  (∀ (cfg : Config) (acc : Word) (x y : List Byte),
    crcFold cfg acc (x ++ y) = crcFold cfg (crcFold cfg acc x) y) ∧
  ∀ (m : List Byte),
    crc32 Config.default (m ++ leBytes 4 (crc32 Config.default m).toNat) = 0x2144DF1C

/-- CRC_BUF: "`outcome <- Crc(crc32(buffer[0..size)))`. No state changes; no exceptions" (R151; that CRC_ACC
holds no value afterwards is 10_state.md R41), with R151's example. -/
def Obligations.CrcBuf : Prop :=
  (∀ (s : State) (size : Word) (buffer : List Byte), buffer.length = size.toNat →
    exec (.crcBuf size buffer) s = .next { s with outcome := .crc (crc32 s.cfg buffer), crcAcc := none }) ∧
  ∀ (s : State), s.cfg = Config.default →
    exec (.crcBuf 9 [0x31, 0x32, 0x33, 0x34, 0x35, 0x36, 0x37, 0x38, 0x39]) s =
      .next { s with outcome := .crc 0xCBF43926, crcAcc := none }

/-- CRC_REGION (R150): the CRC of the first `size` bytes of the bank, of the whole partition where `size` is 0;
`Storage(Read)` where the bank does not fit the address space or `size` passes its end. Every other register
and every byte is unchanged; SB_PM is closed again. -/
def Obligations.CrcRegion : Prop :=
  ∀ (s : State) (c : Cat) (b : Bank) (size : Word), s.loaded c = true → s.storageAnswers →
    let d := s.desc c b
    let n := (if size = 0 then d.partitionSize else size).toNat
    let v := crc32 s.cfg (Memory.readBytes (s.store (s.cfg.dev c)) d.startAddr.toNat n)
    ∃ fates glitches h, h.isClosed ∧
      exec (.crcRegion c b size) s = .next { s with
        storageFates := fates
        readGlitches := glitches
        sbPm := h
        crcAcc := none
        outcome :=
          if d.startAddr.toNat + d.partitionSize.toNat ≤ 2 ^ 32 ∧ n ≤ d.partitionSize.toNat then .crc v
          else .error (.storage .read) }

/-! ## Frames that touch no storage -/

/-- DEBUG: "accepted in every state of an open session, including the read direction, changes nothing, and
produces no response" (41_frame_parser.md R190); EMPTY_READS is cleared as by every frame (43_session_driver.md
R230). -/
def Obligations.DebugFrame : Prop :=
  ∀ (s : State), s.sessionOpen = true →
    exec .debug s = .next { s with emptyReads := false, outcome := .proceed, crcAcc := none }

/-- The twelve terminal commands reset the context, close the session and report their code; no byte and no
descriptor changes (42_command_dispatch.md R201, R210 to R221). -/
def Obligations.TerminalCommands : Prop :=
  ∀ (s : State), s.reaches .command → ∀ p ∈ Instr.terminal,
    exec p.1 s = .next { s.ended with
      emptyReads := false
      outcome := .terminal (s.cfg.cmdCodes.of p.2)
      crcAcc := none }

/-- CMD (42_command_dispatch.md R200): the range of the code, then the length of the Crc command, then the rule
the code selects. -/
def Obligations.CommandFrontEnd : Prop :=
  ∀ (s : State) (code : Half) (tail : List Byte), s.reaches .command → s.cfg.commandCodesOk →
    ((code < s.cfg.cmdMin ∨ s.cfg.cmdMax < code) → s.cfg.errorReply = .none →
      exec (.cmd code tail) s = .next (s.rejected (.framing .commandCode))) ∧
    (∀ p ∈ Instr.terminal, code = s.cfg.cmdCodes.of p.2 →
      exec (.cmd code tail) s = .next { s.ended with
        emptyReads := false, outcome := .terminal code, crcAcc := none }) ∧
    (code = s.cfg.cmdCodes.crc → tail.length < 4 → s.cfg.errorReply = .none →
      exec (.cmd code tail) s = .next (s.rejected (.framing .size))) ∧
    (code = s.cfg.cmdCodes.crc → 4 ≤ tail.length →
      exec (.cmd code tail) s = exec (.cmdCrc (be32 tail 0)) s)

/-- ERROR (41_frame_parser.md R185, R186): a code in range ends a read-back and changes nothing else; a code out
of range is malformed. -/
def Obligations.ErrorFrame : Prop :=
  ∀ (s : State) (code : Half), s.sessionOpen = true →
    if code < s.cfg.errMin ∨ s.cfg.errMax < code then
      s.cfg.errorReply = .none → exec (.error code) s = .next (s.rejected (.framing .errorCode))
    else if s.dir = .read then
      exec (.error code) s = .next { s.ended with
        sessionOpen := true, emptyReads := false, outcome := .peerError code, crcAcc := none }
    else exec (.error code) s =
      .next { s with emptyReads := false, outcome := .peerError code, crcAcc := none }

/-- ACK outside the read direction, and the Acks that are refused in either (41_frame_parser.md R180, R181):
not in progress changes nothing; a wrong number closes the session and keeps the context (60_exceptions.md
R304); a matching one has no effect. -/
def Obligations.AckFrame : Prop :=
  ∀ (s : State) (block : Half), s.sessionOpen = true → s.cfg.errorReply = .none →
    if s.tc.inProgress = false then exec (.ack block) s = .next (s.rejected (.state .notInProgress))
    else if block ≠ s.tc.lastBlock then
      exec (.ack block) s = .next { s.rejected (.sequence .ackMismatch) with sessionOpen := false }
    else s.dir ≠ .read →
      exec (.ack block) s = .next { s with emptyReads := false, outcome := .proceed, crcAcc := none }

/-- The direction gate: "if DIR = Read and KIND ∈ {ReadRequest, WriteRequest, Data, Command} then raise
State(WrongDirection)", which changes nothing; "Ack, Error and Debug pass the gate in every state"
(41_frame_parser.md R164). -/
def Obligations.DirectionGate : Prop :=
  ∀ (s : State), s.sessionOpen = true → s.cfg.errorReply = .none →
    (s.dir = .read → ∀ i : Instr,
      ((∃ length name, i = .rrq length name) ∨ (∃ name, i = .wrq name) ∨ (∃ block payload, i = .data block payload) ∨
        (∃ code tail, i = .cmd code tail) ∨ (∃ value, i = .cmdCrc value) ∨ ∃ p ∈ Instr.terminal, i = p.1) →
      exec i s = .next (s.rejected (.state .wrongDirection))) ∧
    ∀ (i : Instr) (t : State), ((∃ block, i = .ack block) ∨ (∃ code, i = .error code) ∨ i = .debug) →
      exec i s = .next t → t.outcome ≠ .error (.state .wrongDirection)

/-- FRAME_IN (43_session_driver.md R230): before any frame was presented FB and FLEN hold no value and reading
them is a fault of the model (10_state.md R45, R46); then a length of 0 is the empty read; with no session open a frame "is not
parsed at all: it changes nothing (apart from `EMPTY_READS`)", whatever row it is; in an open session the step
is that of the row FB decodes to, of which a Debug frame and an Error frame are written out. -/
def Obligations.FrameIn : Prop :=
  ∀ (s : State),
    (s.framePresented = false → exec .frameIn s = .fault (.valueless .frameBuffer)) ∧
    (s.framePresented = true → s.flen = 0 → exec .frameIn s = exec .empty s) ∧
    (s.sessionOpen = false →
      (s.framePresented = true → 0 < s.flen → exec .frameIn s = .next (s.rejected (.state .noSession))) ∧
      ∀ i : Instr, i.isFrame = true → exec i s = .next (s.rejected (.state .noSession))) ∧
    (s.framePresented = true → 0 < s.flen → s.sessionOpen = true → ∀ f, decodeFrame s.fb s.flen = .ok f →
      exec .frameIn s = exec (Instr.ofFrame s.cfg f) s ∧
      (f = .debug →
        exec .frameIn s = .next { s with emptyReads := false, outcome := .proceed, crcAcc := none }) ∧
      ∀ code, f = .error code → ¬ (code < s.cfg.errMin ∨ s.cfg.errMax < code) → s.dir ≠ .read →
        exec .frameIn s = .next { s with emptyReads := false, outcome := .peerError code, crcAcc := none })

/-- SESSION_RESET (R231), in any state: the context reset, EMPTY_READS cleared, the session open; nothing else. -/
def Obligations.SessionReset : Prop :=
  ∀ (s : State), exec .sessionReset s = .next { s.ended with
    sessionOpen := true, emptyReads := false, outcome := .proceed, crcAcc := none }

/-- EMPTY (R232): no session, the first empty read, the second. -/
def Obligations.EmptyRead : Prop :=
  ∀ (s : State),
    (s.sessionOpen = false → exec .empty s = .next (s.refused (.state .noSession))) ∧
    (s.sessionOpen = true → s.emptyReads = false →
      exec .empty s = .next { s with emptyReads := true, outcome := .proceed, crcAcc := none }) ∧
    (s.sessionOpen = true → s.emptyReads = true → s.cfg.errorReply = .none →
      exec .empty s = .next { s.ended with
        emptyReads := false, outcome := .error (.transport .emptyRead), crcAcc := none })

/-! ## Requests and data -/

/-- The tests of a ReadRequest and a WriteRequest in their order, each changing nothing: the direction, the
name, "a new WriteRequest/ReadRequest while `in_progress` is true is rejected", the category loaded
(41_frame_parser.md R164, R165, R170, R171 (a); 60_exceptions.md R302). That a listed empty name is looked up as
any other is the model's choice (log 37). -/
def Obligations.RequestRejections : Prop :=
  ∀ (s : State) (i : Instr) (name : List Byte), (i = .wrq name ∨ ∃ length, i = .rrq length name) →
    s.sessionOpen = true → s.cfg.errorReply = .none →
    if s.dir = .read then exec i s = .next (s.rejected (.state .wrongDirection))
    else match targetNamed s.cfg name with
      | none => exec i s = .next (s.rejected (.framing .unknownTarget))
      | some t =>
        if s.tc.inProgress = true then exec i s = .next (s.rejected (.state .busy))
        else s.loaded t.cat = false → exec i s = .next (s.rejected (.state .notLoaded))

/-- An accepted ReadRequest (41_frame_parser.md R165, R166; 43_session_driver.md R240, R241): with length 0 the
terminating command at once and the context empty; otherwise Data 0 with the first bytes of the bank and the
read direction open; `Storage` where the bank does not fit the address space or its end would be passed. -/
def Obligations.ReadRequest : Prop :=
  ∀ (s : State) (length : Word) (name : List Byte) (t : Target),
    s.reaches .readRequest → s.requests name t → s.storageAnswers → s.nextTxFails = false →
    s.cfg.errorReply = .none →
    let d := s.desc t.cat t.bank
    let n := min 512 length.toNat
    ∃ fates glitches,
      (d.startAddr.toNat + d.partitionSize.toNat ≤ 2 ^ 32 → length = 0 →
        exec (.rrq length name) s = .next { s.ended with
          sessionOpen := true, emptyReads := false, storageFates := fates
          sbTx := { s.boundTx name t with bound := false }
          txFaults := s.txFaults.tail
          txq := s.txq ++ [[0, 6] ++
            encBe16 (if t.cat = .app then s.cfg.cmdCodes.endTransfer else s.cfg.cmdCodes.spiEnd)]
          outcome := .proceed, crcAcc := none }) ∧
      (d.startAddr.toNat + d.partitionSize.toNat ≤ 2 ^ 32 → length ≠ 0 → n ≤ d.partitionSize.toNat →
        exec (.rrq length name) s = .next { s with
          emptyReads := false, storageFates := fates, readGlitches := glitches
          sbTx := s.boundTx name t
          tc := { inProgress := true, targetId := some t, lastBlock := 0, expectedSize := length
                  crcReceived := false }
          dir := .read
          rbOff := BitVec.ofNat 32 n
          txFaults := s.txFaults.tail
          txq := s.txq ++ [[0, 3, 0, 0] ++
            Memory.readBytes (s.store (s.cfg.dev t.cat)) d.startAddr.toNat n]
          outcome := .proceed, crcAcc := none }) ∧
      (d.startAddr.toNat + d.partitionSize.toNat ≤ 2 ^ 32 → d.partitionSize.toNat < n →
        exec (.rrq length name) s = .next { s.ended with
          emptyReads := false, storageFates := fates, readGlitches := glitches
          sbTx := { s.boundTx name t with bound := false }
          outcome := .error (.storage .read), crcAcc := none }) ∧
      (2 ^ 32 < d.startAddr.toNat + d.partitionSize.toNat →
        exec (.rrq length name) s = .next { s.ended with
          emptyReads := false, storageFates := fates
          sbTx := { s.boundTx name t with bound := false }
          outcome := .error (.storage .init), crcAcc := none })

/-- An accepted WriteRequest (41_frame_parser.md R170, R171 (b)): the whole partition erased (an auxiliary bank
only with AUX_ERASE_ON_OPEN), the transfer open, Ack 0 emitted; no other byte and no descriptor changes.
`Storage(Init)` where the bank does not fit the address space (20_memory.md R61). -/
def Obligations.WriteRequest : Prop :=
  ∀ (s : State) (name : List Byte) (t : Target),
    s.reaches .writeRequest → s.requests name t → s.storageAnswers → s.nextTxFails = false →
    s.cfg.errorReply = .none → Memory.wf (s.store (s.cfg.dev t.cat)) →
    let area := requestArea s name t
    ∃ fates m,
      (∀ a, Memory.read m a =
        if area.covers (s.cfg.dev t.cat) a ∧ (t.cat = .app ∨ s.cfg.auxEraseOnOpen = true) then s.cfg.erasedByte
        else s.byte (s.cfg.dev t.cat) a) ∧
      (area.start.toNat + area.size.toNat ≤ 2 ^ 32 →
        exec (.wrq name) s = .next { s.setStore (s.cfg.dev t.cat) m with
          emptyReads := false, storageFates := fates
          sbTx := s.boundTx name t
          tc := { s.tc with inProgress := true, targetId := some t, lastBlock := 0, crcReceived := false }
          dir := .write
          txFaults := s.txFaults.tail
          txq := s.txq ++ [[0, 4, 0, 0]]
          outcome := .proceed, crcAcc := none }) ∧
      (2 ^ 32 < area.start.toNat + area.size.toNat →
        exec (.wrq name) s = .next { s.ended with
          emptyReads := false, storageFates := fates
          sbTx := { s.boundTx name t with bound := false }
          outcome := .error (.storage .init), crcAcc := none })

/-- An accepted Data frame (41_frame_parser.md R175): "the byte written at area offset `SB_TX.CUR + i` is
`FB[4 + i]`" where the old byte is erased (what another byte becomes is free, 20_memory.md R75, log 6), the
cursor advances, the number is kept and acknowledged; no other byte changes. -/
def Obligations.DataAccepted : Prop :=
  ∀ (s : State) (block : Half) (payload : List Byte),
    s.reaches .data → s.tc.inProgress = true → block.toNat = s.tc.lastBlock.toNat + 1 →
    s.sbTx.bound = true → s.sbTx.area.start.toNat + s.sbTx.area.size.toNat ≤ 2 ^ 32 →
    s.sbTx.cur.toNat + payload.length ≤ s.sbTx.area.size.toNat →
    s.storageAnswers → s.nextTxFails = false → Memory.wf (s.store s.sbTx.area.dev) →
    ∃ fates ctr m,
      exec (.data block payload) s = .next { s.setStore s.sbTx.area.dev m with
        emptyReads := false, storageFates := fates, freeCtr := ctr
        sbTx := { s.sbTx with cur := s.sbTx.cur + BitVec.ofNat 32 payload.length }
        tc := { s.tc with lastBlock := block }
        txFaults := s.txFaults.tail
        txq := s.txq ++ [[0, 4] ++ encBe16 block]
        outcome := .proceed, crcAcc := none } ∧
      (∀ a, (a < s.sbTx.cursor ∨ s.sbTx.cursor + payload.length ≤ a) →
        Memory.read m a = s.byte s.sbTx.area.dev a) ∧
      ∀ i b, payload[i]? = some b → s.byte s.sbTx.area.dev (s.sbTx.cursor + i) = s.cfg.erasedByte →
        Memory.read m (s.sbTx.cursor + i) = b

/-- The Data frames that are refused, in their order: none in progress; a wrong number, which closes the session
and keeps the Transfer Context, with no wrap of the number (41_frame_parser.md R176 (a), (b); 60_exceptions.md
R304); a payload that would pass the end of the area, which writes nothing (R176 (d)). -/
def Obligations.DataRejected : Prop :=
  ∀ (s : State) (block : Half) (payload : List Byte), s.reaches .data → s.cfg.errorReply = .none →
    if s.tc.inProgress = false then exec (.data block payload) s = .next (s.rejected (.state .notInProgress))
    else if block.toNat ≠ s.tc.lastBlock.toNat + 1 then
      exec (.data block payload) s = .next { s.rejected (.sequence .blockMismatch) with sessionOpen := false }
    else s.storageAnswers → s.sbTx.area.size.toNat < s.sbTx.cur.toNat + payload.length →
      ∃ fates, exec (.data block payload) s = .next { s.ended with
        emptyReads := false, storageFates := fates
        outcome := .error (.storage .write), crcAcc := none }

/-- "A Data frame whose Ack could not be sent has still been written to the bank", but the context reset then
discards the block counter (60_exceptions.md R308). -/
def Obligations.UnsentAck : Prop :=
  ∀ (s : State) (block : Half) (payload : List Byte),
    s.reaches .data → s.tc.inProgress = true → block.toNat = s.tc.lastBlock.toNat + 1 →
    s.sbTx.bound = true → s.sbTx.area.start.toNat + s.sbTx.area.size.toNat ≤ 2 ^ 32 →
    s.sbTx.cur.toNat + payload.length ≤ s.sbTx.area.size.toNat →
    s.storageAnswers → s.nextTxFails = true → s.cfg.errorReply = .none →
    Memory.wf (s.store s.sbTx.area.dev) →
    ∃ fates ctr m,
      exec (.data block payload) s = .next { (s.setStore s.sbTx.area.dev m).ended with
        emptyReads := false, storageFates := fates, freeCtr := ctr
        txFaults := s.txFaults.tail
        outcome := .error (.transport .write), crcAcc := none } ∧
      (∀ a, (a < s.sbTx.cursor ∨ s.sbTx.cursor + payload.length ≤ a) →
        Memory.read m a = s.byte s.sbTx.area.dev a) ∧
      ∀ i b, payload[i]? = some b → s.byte s.sbTx.area.dev (s.sbTx.cursor + i) = s.cfg.erasedByte →
        Memory.read m (s.sbTx.cursor + i) = b

/-- An Ack in the read direction sends the next block (43_session_driver.md R240): `min(512, remaining)` bytes
of the bank from RB_OFF, numbered RB_OFF / 512; block 65536 is `Sequence(BlockOverflow)`, which keeps the
context (R242 (d)); a block past the end of the area is `Storage(Read)` (R242 (c)). -/
def Obligations.ReadBackBlock : Prop :=
  ∀ (s : State) (block : Half),
    s.sessionOpen = true → s.tc.inProgress = true → s.dir = .read → block = s.tc.lastBlock →
    s.rbOff.toNat < s.tc.expectedSize.toNat → s.cfg.errorReply = .none →
    let n := min 512 (s.tc.expectedSize.toNat - s.rbOff.toNat)
    let blk := s.rbOff.toNat / 512
    if 0xFFFF < blk then
      exec (.ack block) s = .next { s.rejected (.sequence .blockOverflow) with sessionOpen := false }
    else s.sbTx.bound = true → s.sbTx.area.start.toNat + s.sbTx.area.size.toNat ≤ 2 ^ 32 →
      s.storageAnswers → s.nextTxFails = false →
      ∃ fates glitches,
        if s.rbOff.toNat + n ≤ s.sbTx.area.size.toNat then
          exec (.ack block) s = .next { s with
            emptyReads := false, storageFates := fates, readGlitches := glitches
            tc := { s.tc with lastBlock := BitVec.ofNat 16 blk }
            rbOff := s.rbOff + BitVec.ofNat 32 n
            txFaults := s.txFaults.tail
            txq := s.txq ++ [[0, 3] ++ encBe16 (BitVec.ofNat 16 blk) ++
              Memory.readBytes (s.store s.sbTx.area.dev) (s.sbTx.area.start.toNat + s.rbOff.toNat) n]
            outcome := .proceed, crcAcc := none }
        else exec (.ack block) s = .next { s.ended with
            emptyReads := false, storageFates := fates, readGlitches := glitches
            outcome := .error (.storage .read), crcAcc := none }

/-- The end of a read-back (43_session_driver.md R241): the terminating command of the category is emitted, the
context is reset, "the session stays open". -/
def Obligations.ReadBackEnd : Prop :=
  ∀ (s : State) (block : Half) (t : Target),
    s.sessionOpen = true → s.tc.inProgress = true → s.dir = .read → block = s.tc.lastBlock →
    s.tc.expectedSize.toNat ≤ s.rbOff.toNat → s.tc.targetId = some t → s.nextTxFails = false →
    exec (.ack block) s = .next { s.ended with
      sessionOpen := true, emptyReads := false
      txFaults := s.txFaults.tail
      txq := s.txq ++ [[0, 6] ++
        encBe16 (if t.cat = .app then s.cfg.cmdCodes.endTransfer else s.cfg.cmdCodes.spiEnd)]
      outcome := .proceed, crcAcc := none }

/-- `CMD Crc` with the value the block computes (42_command_dispatch.md R205, R206): the descriptor of the
addressed bank takes the CRC and, for an auxiliary bank, the upload's size and CRC; TC.crc_received is set and
the caller is told to write the context. No byte changes and no frame is emitted. -/
def Obligations.CrcCommandMatch : Prop :=
  ∀ (s : State) (received : Word) (t : Target),
    s.reaches .command → s.tc.inProgress = true → s.tc.targetId = some t → s.loaded t.cat = true →
    s.sbTx.bound = true → s.sbTx.area.start.toNat + s.sbTx.area.size.toNat ≤ 2 ^ 32 → s.storageAnswers →
    let d := s.desc t.cat t.bank
    let n := s.sbTx.cur
    let span := if t.cat = .app then d.partitionSize
      else if s.cfg.auxSpanIsBytesWritten = true then n else d.contentSize
    span.toNat ≤ s.sbTx.area.size.toNat →
    crc32 s.cfg (Memory.readBytes (s.store s.sbTx.area.dev) s.sbTx.area.start.toNat span.toNat) = received →
    ∃ fates glitches,
      exec (.cmdCrc received) s = .next { s.setDesc t.cat t.bank
          (if t.cat = .app then { d with crc32 := received }
          else { d with
            crc32 := received, uploadedSize := n, uploadedCrc := received
            contentSize := if s.cfg.auxSpanIsBytesWritten = true then n else d.contentSize }) with
        emptyReads := false, storageFates := fates, readGlitches := glitches
        tc := { s.tc with crcReceived := true }
        outcome := .writeContext t.cat, crcAcc := none }

/-- `CMD Crc` that is refused (42_command_dispatch.md R205, R207; 60_exceptions.md R305): with no transfer open
nothing changes; a span past the end of the area is `Storage(Read)`; another value is `CrcMismatch`: the context
is reset, the session closes, and no descriptor field is written. Where the transfer has no target, or the
category of its target is not loaded, it would read a register that holds no value: a fault of the model
(10_state.md R46), which no state of the invariant reaches. -/
def Obligations.CrcCommandRefused : Prop :=
  ∀ (s : State) (received : Word), s.reaches .command → s.cfg.errorReply = .none →
    (s.tc.inProgress = false → exec (.cmdCrc received) s = .next (s.rejected (.state .notInProgress))) ∧
    (s.tc.inProgress = true → s.tc.targetId = none →
      exec (.cmdCrc received) s = .fault (.valueless .targetId)) ∧
    (∀ t, s.tc.inProgress = true → s.tc.targetId = some t → s.loaded t.cat = false →
      exec (.cmdCrc received) s = .fault (.valueless (.bootContext t.cat))) ∧
    ∀ t, s.tc.inProgress = true → s.tc.targetId = some t → s.loaded t.cat = true →
      s.sbTx.bound = true → s.sbTx.area.start.toNat + s.sbTx.area.size.toNat ≤ 2 ^ 32 → s.storageAnswers →
      let d := s.desc t.cat t.bank
      let span := if t.cat = .app then d.partitionSize
        else if s.cfg.auxSpanIsBytesWritten = true then s.sbTx.cur else d.contentSize
      let v := crc32 s.cfg (Memory.readBytes (s.store s.sbTx.area.dev) s.sbTx.area.start.toNat span.toNat)
      ∃ fates glitches,
        (s.sbTx.area.size.toNat < span.toNat → exec (.cmdCrc received) s = .next { s.ended with
          emptyReads := false, storageFates := fates, readGlitches := glitches
          outcome := .error (.storage .read), crcAcc := none }) ∧
        (span.toNat ≤ s.sbTx.area.size.toNat → v ≠ received →
          exec (.cmdCrc received) s = .next { s.ended with
            emptyReads := false, storageFates := fates, readGlitches := glitches
            outcome := .error (.crcMismatch v received), crcAcc := none })

/-! ## The descriptor validator -/

/-- "Every operation of this file except `LOAD` first requires `LOADED[c] = 1`; otherwise it changes nothing and
ends with `outcome <- Error(State, NotLoaded)`", CRC_REGION too, and a request naming a bank of that category
(44_descriptor_validator.md R261). -/
def Obligations.NotLoaded : Prop :=
  ∀ (s : State) (c : Cat), s.loaded c = false →
    (∀ i : Instr, ((∃ b, i = .validate c b) ∨ i = .swap c ∨ (∃ b size, i = .fixCrc c b size) ∨ i = .commit c ∨
        (∃ a, i = .setActive c a) ∨ ∃ b size, i = .crcRegion c b size) →
      exec i s = .next (s.refused (.state .notLoaded))) ∧
    ∀ (i : Instr) name t, (i = .wrq name ∨ ∃ length, i = .rrq length name) →
      s.reaches .writeRequest → s.cfg.errorReply = .none → targetNamed s.cfg name = some t → t.cat = c →
      s.tc.inProgress = false → exec i s = .next (s.rejected (.state .notLoaded))

/-- SET_ACTIVE (R279): the in-memory selector alone is written; "nothing is persisted". -/
def Obligations.SetActive : Prop :=
  ∀ (s : State) (c : Cat) (a : Active), s.loaded c = true →
    exec (.setActive c a) s = .next { s.setBc c { s.bc c with active := a } with
      outcome := .proceed, crcAcc := none }

/-- VALIDATE (R270, R271), with every read oracle of 93 U7: Empty for the sentinel, with no storage call;
otherwise Valid where the CRC of the span matches, or where it is 0 and the one recomputation matches; Invalid
else, a span past the bank's end or a bank outside the address space included. No byte and no other register
changes. -/
def Obligations.Validate : Prop :=
  ∀ (s : State) (c : Cat) (b : Bank), s.loaded c = true → (∀ f ∈ s.storageFates, f = .completes) →
    let d := s.desc c b
    let n := (if c = .app then d.partitionSize else d.contentSize).toNat
    let bytes := Memory.readBytes (s.store (s.cfg.dev c)) d.startAddr.toNat n
    let v1 := crc32 s.cfg (glitched bytes (s.readGlitches.headD []))
    let v2 := crc32 s.cfg (glitched bytes (s.readGlitches.tail.headD []))
    if d.crc32 = 0xDEADBEEF then
      exec (.validate c b) s = .next { s with outcome := .status .empty, crcAcc := none }
    else ∃ fates glitches h, h.isClosed ∧
      exec (.validate c b) s = .next { s with
        storageFates := fates
        readGlitches := glitches
        sbPm := h
        crcAcc := none
        outcome := .status
          (if d.startAddr.toNat + d.partitionSize.toNat ≤ 2 ^ 32 ∧ n ≤ d.partitionSize.toNat ∧
              (v1 = d.crc32 ∨ (v1 = 0 ∧ v2 = d.crc32)) then .valid else .invalid) }

/-- A storage call that fails in VALIDATE gives Invalid (R270): its MemInit, its MemRead, and the one retry that a
first CRC of 0 brings, whatever the read oracle of 93 U7 gave for the first; in CRC_REGION, FIX_CRC and LOAD
"the operation ends with `OUTCOME = Error(Storage, Read)`, has changed no register, has closed `SB_PM`" and
touches neither the session nor the transfer (60_exceptions.md R306), whichever of its reading calls fails. That
each call counts once, MemInit, then one MemRead a computation, is log 19; Storage(Read) for a MemInit that
fails is log 22. -/
def Obligations.StorageFailureInOperations : Prop :=
  ∀ (s : State) (c : Cat) (b : Bank) (k : Nat) (rest : List CallFate),
    s.storageFates = List.replicate k .completes ++ .fails :: rest →
    let d := s.desc c b
    let first := crc32 s.cfg (glitched (Memory.readBytes (s.store (s.cfg.dev c)) d.startAddr.toNat
      (if c = .app then d.partitionSize else d.contentSize).toNat) (s.readGlitches.headD []))
    (s.loaded c = true → d.crc32 ≠ 0xDEADBEEF → (k < 2 ∨ (k = 2 ∧ first = 0 ∧ d.crc32 ≠ 0)) →
      ∃ fates glitches h, h.isClosed ∧
        exec (.validate c b) s = .next { s with
          storageFates := fates, readGlitches := glitches, sbPm := h
          outcome := .status .invalid, crcAcc := none }) ∧
    (k < 2 → s.loaded c = true →
      ∀ (i : Instr) size, (i = .crcRegion c b size ∨ i = .fixCrc c b size) →
        ∃ fates glitches h, h.isClosed ∧ exec i s = .next { s with
          storageFates := fates, readGlitches := glitches, sbPm := h
          outcome := .error (.storage .read), crcAcc := none }) ∧
    (k < 4 → ∃ fates glitches h, h.isClosed ∧ exec (.load c) s = .next { s with
      storageFates := fates, readGlitches := glitches, sbPm := h
      outcome := .error (.storage .read), crcAcc := none })

/-- COMMIT (R276, R277, R275): the own CRC is recomputed and both copies hold the context's record and its
padding (20_memory.md R82); no other byte and no other register changes. -/
def Obligations.Commit : Prop :=
  ∀ (s : State) (c : Cat), s.cfg.wf → s.loaded c = true → s.storageAnswers →
    Memory.wf (s.store (s.cfg.dev c)) →
    ∃ fates glitches ctr m h, h.isClosed ∧
      holdsCopies s.cfg c (s.bc c) [.primary, .backup] (s.store (s.cfg.dev c)) m ∧
      exec (.commit c) s = .next { (s.setStore (s.cfg.dev c) m).setBc c
          { s.bc c with ownCrc := crc32 s.cfg (arrayBytes s.cfg c (s.bc c)) } with
        storageFates := fates, readGlitches := glitches, freeCtr := ctr, sbPm := h
        outcome := .committed true, crcAcc := none }

/-- SWAP (R272, R273): the selector toggles, None to Bank0, and the whole context is persisted as by COMMIT. -/
def Obligations.Swap : Prop :=
  ∀ (s : State) (c : Cat), s.cfg.wf → s.loaded c = true → s.storageAnswers →
    Memory.wf (s.store (s.cfg.dev c)) →
    let a := if (s.bc c).active = .bank0 then Active.bank1 else .bank0
    ∃ fates glitches ctr m h, h.isClosed ∧
      holdsCopies s.cfg c { s.bc c with active := a } [.primary, .backup] (s.store (s.cfg.dev c)) m ∧
      exec (.swap c) s = .next { (s.setStore (s.cfg.dev c) m).setBc c
          { s.bc c with active := a, ownCrc := crc32 s.cfg (arrayBytes s.cfg c (s.bc c)) } with
        storageFates := fates, readGlitches := glitches, freeCtr := ctr, sbPm := h
        outcome := .swapped a true, crcAcc := none }

/-- FIX_CRC (R274): "only `crc32` of the one descriptor changes", to the CRC of the bank's first bytes, and the
context is persisted; a size past the bank's end, or a bank outside the address space, is `Storage(Read)` and
changes nothing. -/
def Obligations.FixCrc : Prop :=
  ∀ (s : State) (c : Cat) (b : Bank) (size : Word), s.cfg.wf → s.loaded c = true → s.storageAnswers →
    Memory.wf (s.store (s.cfg.dev c)) →
    let d := s.desc c b
    let n := (if size = 0 then d.partitionSize else size).toNat
    let v := crc32 s.cfg (Memory.readBytes (s.store (s.cfg.dev c)) d.startAddr.toNat n)
    let ctx := (s.bc c).setDesc b { d with crc32 := v }
    if d.startAddr.toNat + d.partitionSize.toNat ≤ 2 ^ 32 ∧ n ≤ d.partitionSize.toNat then
      ∃ fates glitches ctr m h, h.isClosed ∧
        holdsCopies s.cfg c ctx [.primary, .backup] (s.store (s.cfg.dev c)) m ∧
        exec (.fixCrc c b size) s = .next { (s.setStore (s.cfg.dev c) m).setBc c
            { ctx with ownCrc := crc32 s.cfg (arrayBytes s.cfg c ctx) } with
          storageFates := fates, readGlitches := glitches, freeCtr := ctr, sbPm := h
          outcome := .fixed v true, crcAcc := none }
    else ∃ fates glitches h, h.isClosed ∧
      exec (.fixCrc c b size) s = .next { s with
        storageFates := fates, readGlitches := glitches, sbPm := h
        outcome := .error (.storage .read), crcAcc := none }

/-- "After a failed primary the backup is not touched" (R277): whichever of the five calls on the primary
fails, COMMIT reports false, the in-memory context keeps its recomputed own CRC, and every byte outside the
primary's sector is unchanged. -/
def Obligations.FailedPrimaryKeepsBackup : Prop :=
  ∀ (s : State) (c : Cat) (k : Nat) (rest : List CallFate), s.cfg.wf → s.loaded c = true →
    Memory.wf (s.store (s.cfg.dev c)) →
    s.storageFates = List.replicate k .completes ++ .fails :: rest → k < 5 →
    ∃ glitches ctr m h, h.isClosed ∧
      (∀ a, ¬ (copyArea s.cfg c .primary).covers (s.cfg.dev c) a →
        Memory.read m a = s.byte (s.cfg.dev c) a) ∧
      exec (.commit c) s = .next { (s.setStore (s.cfg.dev c) m).setBc c
          { s.bc c with ownCrc := crc32 s.cfg (arrayBytes s.cfg c (s.bc c)) } with
        storageFates := rest, readGlitches := glitches, freeCtr := ctr, sbPm := h
        outcome := .committed false, crcAcc := none }

/-- LOAD with a valid copy (R265, R266, R267): both valid and equal, the primary is taken and nothing is
written; otherwise the copy that is not taken is rewritten from the one that is, the primary being taken
wherever it is valid. `LOADED[c]` is set; no other register and no other byte changes. -/
def Obligations.LoadTakesAValidCopy : Prop :=
  ∀ (s : State) (c : Cat), s.cfg.wf → s.storageAnswers → Memory.wf (s.store (s.cfg.dev c)) →
    let p := s.record c .primary
    let b := s.record c .backup
    (copyStatus s.cfg c p = .valid → p = b →
      ∃ fates glitches h, h.isClosed ∧
        exec (.load c) s = .next { (s.setBc c (deserialise s.cfg c p)).setLoaded c with
          storageFates := fates, readGlitches := glitches, sbPm := h
          outcome := .loaded .primary true, crcAcc := none }) ∧
    (copyStatus s.cfg c p = .valid → p ≠ b →
      ∃ fates glitches ctr m h, h.isClosed ∧
        holdsCopies s.cfg c (deserialise s.cfg c p) [.backup] (s.store (s.cfg.dev c)) m ∧
        exec (.load c) s = .next
          { ((s.setStore (s.cfg.dev c) m).setBc c (deserialise s.cfg c p)).setLoaded c with
            storageFates := fates, readGlitches := glitches, freeCtr := ctr, sbPm := h
            outcome := .loaded .primary true, crcAcc := none }) ∧
    (copyStatus s.cfg c p ≠ .valid → copyStatus s.cfg c b = .valid →
      ∃ fates glitches ctr m h, h.isClosed ∧
        holdsCopies s.cfg c (deserialise s.cfg c b) [.primary] (s.store (s.cfg.dev c)) m ∧
        exec (.load c) s = .next
          { ((s.setStore (s.cfg.dev c) m).setBc c (deserialise s.cfg c b)).setLoaded c with
            storageFates := fates, readGlitches := glitches, freeCtr := ctr, sbPm := h
            outcome := .loaded .backup true, crcAcc := none })

/-- LOAD with no valid copy and one empty at least (R265, R269 (a), (b)): a fresh context of the configured
geometry (R264) is installed and persisted; no bank is erased and no corruption flag set. -/
def Obligations.LoadFresh : Prop :=
  ∀ (s : State) (c : Cat), s.cfg.wf → s.storageAnswers → Memory.wf (s.store (s.cfg.dev c)) →
    copyStatus s.cfg c (s.record c .primary) ≠ .valid → copyStatus s.cfg c (s.record c .backup) ≠ .valid →
    (copyStatus s.cfg c (s.record c .primary) = .empty ∨ copyStatus s.cfg c (s.record c .backup) = .empty) →
    ∃ fates glitches ctr m h ctx, h.isClosed ∧
      holdsCopies s.cfg c ctx [.primary, .backup] (s.store (s.cfg.dev c)) m ∧
      ctx.active = .none ∧ ctx.ownCrc = crc32 s.cfg (arrayBytes s.cfg c ctx) ∧
      (∀ b, (ctx.desc b).startAddr = (s.cfg.geometry c b).start ∧
        (ctx.desc b).partitionSize = (s.cfg.geometry c b).size ∧ (ctx.desc b).contentSize = 0 ∧
        (ctx.desc b).crc32 = 0xDEADBEEF ∧ (ctx.desc b).uploadedSize = 0 ∧
        (c = .aux → (ctx.desc b).uploadedCrc = 0xDEADBEEF)) ∧
      exec (.load c) s = .next { ((s.setStore (s.cfg.dev c) m).setBc c ctx).setLoaded c with
        storageFates := fates, readGlitches := glitches, freeCtr := ctr, sbPm := h
        outcome := .loaded .fresh true, crcAcc := none }

/-- LOAD with both copies invalid (R268; 60_exceptions.md R309): CORRUPT[c] is set, for App FORCE_UPDATE too; both
banks of the configured geometry are erased; a fresh context is installed and persisted; no other byte
changes. -/
def Obligations.LoadCorrupt : Prop :=
  ∀ (s : State) (c : Cat), s.cfg.wf → s.storageAnswers → Memory.wf (s.store (s.cfg.dev c)) →
    copyStatus s.cfg c (s.record c .primary) = .invalid → copyStatus s.cfg c (s.record c .backup) = .invalid →
    ∃ fates glitches ctr m h, h.isClosed ∧
      (∀ which i v, (copyImage s.cfg c (fresh s.cfg c))[i]? = some v →
        Memory.read m ((copyAddr s.cfg c which).toNat + i) = v) ∧
      (∀ b a, (configuredArea s.cfg c b).covers (s.cfg.dev c) a → Memory.read m a = s.cfg.erasedByte) ∧
      (∀ a, (∀ which, ¬ (copyArea s.cfg c which).covers (s.cfg.dev c) a) →
        (∀ b, ¬ (configuredArea s.cfg c b).covers (s.cfg.dev c) a) →
        Memory.read m a = s.byte (s.cfg.dev c) a) ∧
      exec (.load c) s = .next
        { ((s.setStore (s.cfg.dev c) m).setBc c (fresh s.cfg c)).setLoaded c with
          forceUpdate := if c = .app then true else s.forceUpdate
          corruptApp := if c = .app then true else s.corruptApp
          corruptAux := if c = .aux then true else s.corruptAux
          storageFates := fates, readGlitches := glitches, freeCtr := ctr, sbPm := h
          outcome := .loaded .freshAfterErase true, crcAcc := none }

/-- What COMMIT persists, LOAD returns after a reset (R276, R265; 20_memory.md R81), provided the record is not
all erased bytes (R263 tests that first). -/
def Obligations.CommitThenLoad : Prop :=
  ∀ (s t : State) (c : Cat), s.cfg.wf → s.loaded c = true → s.storageAnswers →
    Memory.wf (s.store (s.cfg.dev c)) →
    (c = .app → ∀ b, (s.desc .app b).uploadedSize = 0 ∧ (s.desc .app b).uploadedCrc = 0) →
    (serialise s.cfg c (s.bc c)).all (· == s.cfg.erasedByte) = false →
    exec (.commit c) s = .next t →
    ∃ u, exec (.load c) t.powerUp = .next u ∧
      u.bc c = { s.bc c with ownCrc := crc32 s.cfg (arrayBytes s.cfg c (s.bc c)) } ∧
      u.loaded c = true ∧ u.outcome = .loaded .primary true ∧ ∀ d a, u.byte d a = t.byte d a

/-- The record of a context (20_memory.md R80, R81): its length, each field little-endian at its offset under
the default parameters, and that decoding it gives the context back with the own CRC freshly computed. An
application context holds no auxiliary field (log 12); a selector number too large for its field is persisted by
its low bytes (log 36). -/
def Obligations.RecordLayoutAndRoundTrip : Prop :=
  ∀ (cfg : Config) (c : Cat) (ctx : BootContext),
    (cfg.activeEncOk → (c = .app → ∀ b, (ctx.desc b).uploadedSize = 0 ∧ (ctx.desc b).uploadedCrc = 0) →
      deserialise cfg c (serialise cfg c ctx) = { ctx with ownCrc := crc32 cfg (arrayBytes cfg c ctx) }) ∧
    (cfg.persistEndian = .little → cfg.activeBytes = 4 →
      let r := serialise cfg c ctx
      let k := if c = .app then 16 else 24
      let le (off : Nat) (v : Word) := slice r off (off + 4) = leBytes 4 v.toNat
      r.length = (if c = .app then 40 else 56) ∧
      (∀ b, let o := if b = Bank.b0 then 0 else k
        le o (ctx.desc b).startAddr ∧ le (o + 4) (ctx.desc b).contentSize ∧
        le (o + 8) (ctx.desc b).partitionSize ∧ le (o + 12) (ctx.desc b).crc32 ∧
        (c = .aux → le (o + 16) (ctx.desc b).uploadedSize ∧ le (o + 20) (ctx.desc b).uploadedCrc)) ∧
      slice r (2 * k) (2 * k + 4) = leBytes 4 (cfg.activeEnc.of ctx.active) ∧
      le (2 * k + 4) (crc32 cfg (r.take (2 * k))))

/-- Power lost at any storage call of a SWAP, before it or inside it, of a context whose two copies hold its
record: the next LOAD returns the context from before the SWAP or the one after it, provided that a copy whose
bytes are unspecified does not classify as a valid third record (R278; 20_memory.md R83;
70_reset_and_hazards.md R345). -/
def Obligations.InterruptedSwapIsAtomic : Prop :=
  ∀ (s t : State) (c : Cat) (k : Nat) (f : CallFate),
    s.cfg.wf → s.loaded c = true → s.readGlitches = [] → Memory.wf (s.store (s.cfg.dev c)) →
    (c = .app → ∀ b, (s.desc .app b).uploadedSize = 0 ∧ (s.desc .app b).uploadedCrc = 0) →
    (s.bc c).ownCrc = crc32 s.cfg (arrayBytes s.cfg c (s.bc c)) →
    let old := serialise s.cfg c (s.bc c)
    let next := { s.bc c with active := toggled (s.bc c).active }
    let new := serialise s.cfg c next
    old.all (· == s.cfg.erasedByte) = false → new.all (· == s.cfg.erasedByte) = false →
    (∀ which, s.record c which = old) →
    s.storageFates = List.replicate k .completes ++ [f] → (f = .lostBefore ∨ f = .lostDuring) →
    exec (.swap c) s = .next t →
    (∀ which, copyStatus s.cfg c (t.record c which) ≠ .valid ∨ t.record c which = old ∨
      t.record c which = new) →
    k < 10 → t.loaded c = false ∧
      ∃ u, exec (.load c) t = .next u ∧ (u.bc c = s.bc c ∨ u.bc c = next) ∧ u.loaded c = true

/-- The startup decision boots a bank exactly when nothing forces update mode, the bank is Valid, and it is the
active one or the active one is not Valid (R290, R291). -/
def Obligations.BootDecision : Prop :=
  ∀ (v : Bank → BankStatus) (active : Active) (request force : Bool) (b : Bank),
    bootDecision (v .b0) (v .b1) active request force = .boot b ↔
      force = false ∧ request = false ∧ v .b0 ≠ .invalid ∧ v .b1 ≠ .invalid ∧ v b = .valid ∧
      ((active = .bank0 ∧ (b = .b0 ∨ v .b0 ≠ .valid)) ∨ (active = .bank1 ∧ (b = .b1 ∨ v .b1 ≠ .valid)))

/-! ## The whole machine -/

/-- The registers after reset (10_state.md R45; 70_reset_and_hazards.md R341), at State.reset and after a reset between two steps, which
leaves every byte of the devices. -/
def Obligations.ResetState : Prop :=
  ∀ (s : State) (rest : List Event), s.inbox = .powerCycle :: rest →
    ∃ t, step s = .next t ∧ t.cfg = s.cfg ∧ (∀ d a, t.byte d a = s.byte d a) ∧
      ∀ u, (u = t ∨ u = State.reset) →
        u.sessionOpen = false ∧ u.tc = { inProgress := false, targetId := none, lastBlock := 0,
                                         expectedSize := 0, crcReceived := false } ∧
        u.dir = .noDir ∧ u.rbOff = 0 ∧ u.emptyReads = false ∧ u.outcome = .proceed ∧ u.txq = [] ∧
        u.forceUpdate = false ∧ u.corruptApp = false ∧ u.corruptAux = false ∧ u.loadedApp = false ∧
        u.loadedAux = false ∧ u.sbTx.isClosed ∧ u.sbPm.isClosed ∧ u.crcAcc = none ∧
        u.framePresented = false ∧ phase u = .idle

/-- The invariant holds of every block that is built, at reset and whatever its devices hold; a block is built
from a record exactly where that satisfies the constraints of 00_scope.md R10, "all of which a model should
check when it builds the record", so none is built from another (93 U19); State.reset is the block built from the
default record. The model's choices in it: the geometry of the default record (log 1), what the registers hold
that R45 gives no value (log 8, 9, 11), a region of size 0 inside another one (log 34), and Option as the form of
the check (log 31). -/
def Obligations.InvAtReset : Prop :=
  (∀ (cfg : Config) (flash spi : Memory),
    ((∃ s, State.build? cfg flash spi = some s) ↔
      cfg.regionsDisjoint ∧ cfg.copiesDistinct ∧ cfg.copiesAligned ∧ cfg.sectorsHoldRecords ∧
      cfg.commandCodesOk ∧ cfg.namesOk) ∧
    ∀ s, State.build? cfg flash spi = some s → Memory.wf flash → Memory.wf spi →
      Inv s ∧ s.cfg = cfg ∧ s.flash = flash ∧ s.spi = spi) ∧
  State.build? Config.default [] [] = some State.reset ∧ Inv State.reset

/-- Every step keeps the invariant (10_state.md R21, R26, R27, R31, R40, R41; 20_memory.md R61;
43_session_driver.md R232, R240; 44_descriptor_validator.md R268) and the configuration. -/
def Obligations.EveryStepKeepsInv : Prop :=
  ∀ (s t : State), Inv s → step s = .next t → Inv t ∧ t.cfg = s.cfg

/-- In a state of the invariant a step always has a next state, whatever the event: no rule reads a register that
holds no value (10_state.md R46) and none an address that does not exist (20_memory.md R61). -/
def Obligations.InvStepsComplete : Prop :=
  ∀ (s : State), Inv s → ∃ t, step s = .next t

/-- What no frame changes, power lost or not: no byte outside the bank a WriteRequest names or the bytes at the
cursor a Data frame writes (60_exceptions.md R317 (a); 70_reset_and_hazards.md R345: "every storage byte not
addressed by a call in progress keeps its value"), and no frame opens a session. Where power holds, neither
selector, no geometry, no flag of the caller's, no own CRC and no SB_PM (R317 (b), (c); 10_state.md R38); where
it does not, R345 gives every register its reset value. -/
def Obligations.FrameLimits : Prop :=
  ∀ (s t : State) (i : Instr), i.isFrame = true → Memory.wf s.flash → Memory.wf s.spi →
    exec i s = .next t →
    t.cfg = s.cfg ∧ t.inbox = s.inbox ∧ (t.sessionOpen = true → s.sessionOpen = true) ∧
    (s.powerHolds → (∀ c, t.loaded c = s.loaded c ∧ t.corrupt c = s.corrupt c ∧
      (t.bc c).active = (s.bc c).active ∧ (t.bc c).ownCrc = (s.bc c).ownCrc ∧
      ∀ b, (t.desc c b).startAddr = (s.desc c b).startAddr ∧
        (t.desc c b).partitionSize = (s.desc c b).partitionSize) ∧
      t.forceUpdate = s.forceUpdate ∧ t.sbPm = s.sbPm ∧ t.fb = s.fb ∧ t.flen = s.flen ∧
      t.framePresented = s.framePresented) ∧
    ((∃ d a, t.byte d a ≠ s.byte d a) → (∃ name, i = .wrq name) ∨ ∃ block payload, i = .data block payload) ∧
    (∀ name, i = .wrq name → ∀ d a, t.byte d a ≠ s.byte d a →
      ∃ target, s.requests name target ∧ (requestArea s name target).covers d a) ∧
    ∀ block payload, i = .data block payload → ∀ d a, t.byte d a ≠ s.byte d a →
      s.sbTx.bound = true ∧ s.sbTx.area.covers d a ∧
      s.sbTx.cursor ≤ a ∧ a < s.sbTx.cursor + payload.length

/-- What no operation changes, power lost or not: a byte outside the category's two context sectors is changed
by LOAD alone, and then inside the category's configured banks; VALIDATE, CRC_REGION, CRC_BUF, SET_ACTIVE and
SESSION_RESET change none (60_exceptions.md R317 (a); 44_descriptor_validator.md R270, R279). Where power
holds, no operation but SESSION_RESET touches the session or the transfer (30_encoding.md R126; R260), and none
emits a frame. -/
def Obligations.OperationLimits : Prop :=
  ∀ (s t : State) (i : Instr), i.isOperation = true → Memory.wf s.flash → Memory.wf s.spi →
    exec i s = .next t →
    (∀ d a, t.byte d a ≠ s.byte d a → ∃ c,
      ((i = .load c ∨ i = .swap c ∨ i = .commit c ∨ ∃ b size, i = .fixCrc c b size) ∧
        ∃ which, (copyArea s.cfg c which).covers d a) ∨
      (i = .load c ∧ ∃ b, (configuredArea s.cfg c b).covers d a)) ∧
    (s.powerHolds → t.txq = s.txq ∧
      (i ≠ .sessionReset → t.sessionOpen = s.sessionOpen ∧ t.emptyReads = s.emptyReads ∧ t.tc = s.tc ∧
        t.dir = s.dir ∧ t.rbOff = s.rbOff ∧ t.sbTx = s.sbTx))

/-- What each class of error does (60_exceptions.md R303 to R308, R310), for every frame row, EMPTY and FRAME_IN
(a malformed frame runs it), whatever raised it: Framing and State change nothing; Sequence closes the session and nothing else; CrcMismatch, Storage
and Transport reset the context too. No descriptor is written. -/
def Obligations.ErrorClasses : Prop :=
  ∀ (s t : State) (i : Instr) (e : Err), (i.isFrame = true ∨ i = .empty ∨ i = .frameIn) → s.sessionOpen = true →
    s.powerHolds → s.cfg.errorReply = .none → exec i s = .next t → t.outcome = .error e →
    (∀ c, t.bc c = s.bc c ∧ t.loaded c = s.loaded c) ∧ t.txq = s.txq ∧ t.emptyReads = false ∧
    match e.errClass with
    | .framing => t = s.rejected e
    | .state => t = s.rejected e
    | .sequence => t = { s.rejected e with sessionOpen := false }
    | .partitionCorrupt => False
    | .crcMismatch | .storage | .transport =>
      t.sessionOpen = false ∧ t.tc = { inProgress := false, targetId := none, lastBlock := 0,
                                       expectedSize := 0, crcReceived := false } ∧
      t.dir = .noDir ∧ t.rbOff = 0 ∧ t.sbTx.bound = false

/-- The phase after a frame, in every case of the table of 43_session_driver.md R233, and after an operation. -/
def Obligations.PhaseTransitions : Prop :=
  ∀ (s t : State) (i : Instr), Inv s → s.powerHolds → exec i s = .next t →
    (i = .sessionReset → phase t = .awaitingRequest) ∧
    (i.isOperation = true → i ≠ .sessionReset → phase t = phase s) ∧
    (i.isFrame = true → match t.outcome with
      | .error (.framing _) => phase t = phase s
      | .error (.state _) => phase t = phase s
      | .error _ => phase t = .idle ∧ phase s ≠ .idle
      | .terminal _ => phase t = .idle ∧ phase s ≠ .idle
      | .writeContext _ => phase t = .finalizing ∧ (phase s = .transferring ∨ phase s = .finalizing)
      | .peerError _ => phase t = if s.dir = .read then .awaitingRequest else phase s
      | .proceed =>
        ((∃ name, i = .wrq name) → phase s = .awaitingRequest ∧ phase t = .transferring) ∧
        (∀ length name, i = .rrq length name → phase s = .awaitingRequest ∧
          phase t = if length = 0 then .awaitingRequest else .transferring) ∧
        ((∃ block payload, i = .data block payload) →
          phase t = phase s ∧ (phase s = .transferring ∨ phase s = .finalizing)) ∧
        ((∃ block, i = .ack block) →
          phase t = phase s ∨ (phase s = .transferring ∧ phase t = .awaitingRequest ∧ s.dir = .read)) ∧
        (i = .debug → phase t = phase s)
      | _ => False)

/-- "The block emits at most one frame per step, and only these" (43_session_driver.md R234; 30_encoding.md R114):
an Ack, a Data frame of at most 512 bytes, a terminating command, or, with ERROR_REPLY = always, the 5 bytes
of an error reply; a step that raises emits that reply and, with the default, nothing (R236), where no emission
fails. FRAME_IN, which a malformed frame runs, is among the steps. A frame rejected as Framing or State (R303,
R307) changes nothing but that, with either ERROR_REPLY: the reply spends one entry of the tape txFaults
(log 23). -/
def Obligations.EmittedFrames : Prop :=
  ∀ (s t : State) (i : Instr), (i.isFrame = true ∨ i = .empty ∨ i = .frameIn) → s.powerHolds →
    exec i s = .next t →
    (t.txq = s.txq ∨ ∃ f, t.txq = s.txq ++ [f] ∧
      ((∃ n, f = [0, 4] ++ encBe16 n ∧ t.outcome = .proceed) ∨
       (∃ n p, f = [0, 3] ++ encBe16 n ++ p ∧ p.length ≤ 512 ∧ t.outcome = .proceed) ∨
       (f = [0, 6] ++ encBe16 s.cfg.cmdCodes.endTransfer ∧ t.outcome = .proceed) ∨
       (f = [0, 6] ++ encBe16 s.cfg.cmdCodes.spiEnd ∧ t.outcome = .proceed) ∨
       ∃ e, t.outcome = .error e ∧ s.cfg.errorReply = .always ∧
         f = [0, 5] ++ encBe16 (s.cfg.errCodes.of e.errClass) ++ [0])) ∧
    ∀ e, s.sessionOpen = true → t.outcome = .error e →
      (s.txFaults = [] → t.txq = s.txq ++
        (if s.cfg.errorReply = .always then [[0, 5] ++ encBe16 (s.cfg.errCodes.of e.errClass) ++ [0]] else [])) ∧
      ((e.errClass = .framing ∨ e.errClass = .state) → t = { s.rejected e with
        txq := t.txq
        txFaults := if s.cfg.errorReply = .always then s.txFaults.tail else s.txFaults })
end

