-- ==== Sys2Proof/Laws/Act.lean ====
section
/-! SUPPORT. How an action runs: one simp lemma for each way an action is built, and what `require`, `raise`
and `valueOf` can do. Later proofs run a rule with these and unfold no monad. -/

namespace Sys2Proof.Machine

@[simp] theorem run_pure {α : Type} (a : α) (s : State) : (pure a : Act α) s = .ok a s := rfl

@[simp] theorem run_get (s : State) : (get : Act State) s = .ok s s := rfl

@[simp] theorem run_set (t s : State) : (set t : Act PUnit) s = .ok ⟨⟩ t := rfl

@[simp] theorem run_modify (f : State → State) (s : State) : (modify f : Act PUnit) s = .ok ⟨⟩ (f s) := rfl

@[simp] theorem run_throw {α : Type} (e : Stop) (s : State) : (throw e : Act α) s = .error e s := rfl

@[simp] theorem run_raise {α : Type} (e : Err) (s : State) : (raise e : Act α) s = .error (.raised e) s := rfl

/-- Running a sequence: the second action runs where the first one ends, unless the first one stops. -/
theorem run_bind {α β : Type} (x : Act α) (f : α → Act β) (s : State) :
    (x >>= f) s = match x s with
      | .ok a t => f a t
      | .error e t => .error e t := by
  show EStateM.bind x f s = _
  rw [EStateM.bind]
  cases x s <;> rfl

/-- Running an action and transforming what it returns. -/
theorem run_map {α β : Type} (f : α → β) (x : Act α) (s : State) :
    (f <$> x) s = match x s with
      | .ok a t => .ok (f a) t
      | .error e t => .error e t := by
  show EStateM.map f x s = _
  rw [EStateM.map]
  cases x s <;> rfl

theorem run_bind_ok {α β : Type} {x : Act α} {f : α → Act β} {s t : State} {a : α} (h : x s = .ok a t) :
    (x >>= f) s = f a t := by rw [run_bind, h]

theorem run_bind_error {α β : Type} {x : Act α} {f : α → Act β} {s t : State} {e : Stop}
    (h : x s = .error e t) : (x >>= f) s = .error e t := by rw [run_bind, h]

/-- What a finished sequence did: both parts finished. -/
theorem bind_ok_cases {α β : Type} {x : Act α} {f : α → Act β} {s u : State} {b : β}
    (h : (x >>= f) s = .ok b u) : ∃ a t, x s = .ok a t ∧ f a t = .ok b u := by
  rw [run_bind] at h
  split at h
  · exact ⟨_, _, ‹_›, h⟩
  · cases h

/-- What a stopped sequence did: the first part stopped, or it finished and the second part stopped. -/
theorem bind_error_cases {α β : Type} {x : Act α} {f : α → Act β} {s u : State} {e : Stop}
    (h : (x >>= f) s = .error e u) :
    x s = .error e u ∨ ∃ a t, x s = .ok a t ∧ f a t = .error e u := by
  rw [run_bind] at h
  split at h
  · exact .inr ⟨_, _, ‹_›, h⟩
  · cases h
    exact .inl ‹_›

@[simp] theorem run_require_of {p : Prop} [Decidable p] (hp : p) (e : Err) (s : State) :
    require p e s = .ok () s := by simp [require, hp]

@[simp] theorem run_require_not {p : Prop} [Decidable p] (hp : ¬p) (e : Err) (s : State) :
    require p e s = .error (.raised e) s := by simp [require, hp]

theorem run_require (p : Prop) [Decidable p] (e : Err) (s : State) :
    require p e s = if p then .ok () s else .error (.raised e) s := by
  by_cases hp : p <;> simp [hp]

@[simp] theorem run_valueOf_some {α : Type} (r : Valueless) (a : α) (s : State) :
    valueOf r (some a) s = .ok a s := rfl

@[simp] theorem run_valueOf_none {α : Type} (r : Valueless) (s : State) :
    valueOf (α := α) r none s = .error (.fault (.valueless r)) s := rfl

@[simp] theorem run_memBind (h : HandleId) (a : Area) (s : State) :
    memBind h a s = .ok () (s.setHandle h { bound := true, area := a, cur := 0 }) := rfl

@[simp] theorem run_memClose (h : HandleId) (s : State) :
    memClose h s = .ok () (s.setHandle h (s.handle h).close) := rfl

/-- Whatever an action does, finished or stopped, relates the state it starts in to the one it ends in. -/
def Within (R : State → State → Prop) {α : Type} (x : Act α) : Prop :=
  ∀ s, match x s with
    | .ok _ t => R s t
    | .error _ t => R s t

theorem Within.of_ok {R : State → State → Prop} {α : Type} {x : Act α} (hx : Within R x) {s t : State} {a : α}
    (h : x s = .ok a t) : R s t := by simpa [h] using hx s

theorem Within.of_error {R : State → State → Prop} {α : Type} {x : Act α} (hx : Within R x) {s t : State}
    {e : Stop} (h : x s = .error e t) : R s t := by simpa [h] using hx s

theorem within_pure {R : State → State → Prop} (hR : ∀ s, R s s) {α : Type} (a : α) :
    Within R (pure a : Act α) := fun s => hR s

theorem within_throw {R : State → State → Prop} (hR : ∀ s, R s s) {α : Type} (e : Stop) :
    Within R (throw e : Act α) := fun s => hR s

theorem within_raise {R : State → State → Prop} (hR : ∀ s, R s s) {α : Type} (e : Err) :
    Within R (raise e : Act α) := fun s => hR s

theorem within_get {R : State → State → Prop} (hR : ∀ s, R s s) : Within R (get : Act State) := fun s => hR s

theorem within_modify {R : State → State → Prop} {f : State → State} (h : ∀ s, R s (f s)) :
    Within R (modify f : Act PUnit) := fun s => h s

theorem within_require {R : State → State → Prop} (hR : ∀ s, R s s) (p : Prop) [Decidable p] (e : Err) :
    Within R (require p e) := by
  intro s
  rw [run_require]
  split <;> split at * <;> simp_all

theorem within_valueOf {R : State → State → Prop} (hR : ∀ s, R s s) {α : Type} (r : Valueless) (v : Option α) :
    Within R (valueOf r v) := by cases v <;> exact fun s => hR s

theorem within_bind {R : State → State → Prop} (hT : ∀ {s t u}, R s t → R t u → R s u) {α β : Type} {x : Act α}
    {f : α → Act β} (hx : Within R x) (hf : ∀ a, Within R (f a)) : Within R (x >>= f) := by
  intro s
  have h1 := hx s
  rw [run_bind]
  cases h : x s with
  | error e t => rw [h] at h1; exact h1
  | ok a t =>
    rw [h] at h1
    have h2 := hf a t
    show match f a t with
      | .ok _ u => R s u
      | .error _ u => R s u
    split at h2 <;> simp_all <;> exact hT h1 h2

end Sys2Proof.Machine
end

