-- ==== Sys2Proof/Laws/Memory.lean ====
section
/-! SUPPORT. The laws of a storage device's bytes (spec/20_memory.md R60 to R66): a read after a write, the
canonical form kept by every memory operation, and equal readings mean equal memories. -/

namespace Sys2Proof.Machine

/-! ### The canonical form -/

theorem Memory.wf_nil : Memory.wf [] := ⟨List.Pairwise.nil, by simp⟩

theorem Memory.wf_tail {c : Host.Cell} {m : Memory} (h : Memory.wf (c :: m)) : Memory.wf m :=
  ⟨(List.pairwise_cons.mp h.1).2, fun x hx => h.2 x (List.mem_cons_of_mem _ hx)⟩

theorem Memory.wf_head_lt {k : Nat} {v : Byte} {m : Memory} (h : Memory.wf ((k, v) :: m)) :
    ∀ c ∈ m, k < c.1 := (List.pairwise_cons.mp h.1).1

theorem Memory.wf_cons {k : Nat} {v : Byte} {m : Memory} (h : Memory.wf m) (hk : ∀ c ∈ m, k < c.1)
    (hv : v ≠ unlistedByte) : Memory.wf ((k, v) :: m) :=
  ⟨List.pairwise_cons.mpr ⟨hk, h.1⟩, by
    intro c hc
    rcases List.mem_cons.mp hc with rfl | hc
    · exact hv
    · exact h.2 c hc⟩

theorem Memory.mem_write_key {m : Memory} {a : Nat} {b : Byte} {c : Host.Cell} (h : c ∈ Memory.write m a b) :
    c.1 = a ∨ c ∈ m := by
  induction m with
  | nil =>
    simp only [Memory.write] at h
    split at h <;> simp_all
  | cons d m ih =>
    obtain ⟨k, v⟩ := d
    simp only [Memory.write] at h
    split at h
    · split at h <;> simp_all
      rcases h with rfl | h <;> simp_all
    · split at h
      · split at h <;> simp_all
        rcases h with rfl | h <;> simp_all
      · rcases List.mem_cons.mp h with rfl | h
        · simp
        · rcases ih h with h | h <;> simp_all

/-- A write keeps the canonical form. -/
theorem Memory.write_wf {m : Memory} (h : Memory.wf m) (a : Nat) (b : Byte) : Memory.wf (Memory.write m a b) := by
  induction m with
  | nil =>
    simp only [Memory.write]
    split
    · exact Memory.wf_nil
    · exact Memory.wf_cons Memory.wf_nil (by simp) ‹_›
  | cons d m ih =>
    obtain ⟨k, v⟩ := d
    have ht := Memory.wf_tail h
    have hk := Memory.wf_head_lt h
    have hv : v ≠ unlistedByte := h.2 (k, v) (by simp)
    simp only [Memory.write]
    split
    · split
      · exact h
      · refine Memory.wf_cons h ?_ ‹_›
        intro c hc
        rcases List.mem_cons.mp hc with rfl | hc
        · assumption
        · have := hk c hc
          omega
    · split
      · split
        · exact ht
        · subst_vars
          exact Memory.wf_cons ht hk ‹_›
      · refine Memory.wf_cons (ih ht) ?_ hv
        intro c hc
        rcases Memory.mem_write_key hc with h1 | h1
        · omega
        · exact hk c h1

/-- The bytes written keep the canonical form. -/
theorem Memory.writeBytes_wf {m : Memory} (h : Memory.wf m) (a : Nat) (bs : List Byte) :
    Memory.wf (Memory.writeBytes m a bs) := by
  induction bs generalizing m a with
  | nil => exact h
  | cons b bs ih => exact ih (Memory.write_wf h a b) (a + 1)

/-- A fill keeps the canonical form. -/
theorem Memory.fill_wf {m : Memory} (h : Memory.wf m) (a n : Nat) (b : Byte) :
    Memory.wf (Memory.fill m a n b) := by
  unfold Memory.fill
  split
  · exact ⟨h.1.filter _, fun c hc => h.2 c (List.mem_of_mem_filter hc)⟩
  · exact Memory.writeBytes_wf h a _

/-! ### Reading -/

theorem Memory.read_of_lt {m : Memory} {a : Nat} (h : ∀ c ∈ m, a < c.1) : Memory.read m a = unlistedByte := by
  induction m with
  | nil => rfl
  | cons d m ih =>
    obtain ⟨k, v⟩ := d
    have : a < k := h (k, v) (by simp)
    rw [Memory.read, if_neg (by omega)]
    exact ih fun c hc => h c (List.mem_cons_of_mem _ hc)

/-- A read after a write: the byte written where it was written, the old byte elsewhere. -/
theorem Memory.read_write {m : Memory} (h : Memory.wf m) (a x : Nat) (b : Byte) :
    Memory.read (Memory.write m a b) x = if x = a then b else Memory.read m x := by
  induction m with
  | nil =>
    simp only [Memory.write]
    split <;> simp_all [Memory.read, eq_comm]
  | cons d m ih =>
    obtain ⟨k, v⟩ := d
    have ht := Memory.wf_tail h
    have hk := Memory.wf_head_lt h
    have ih := ih ht
    by_cases hxa : x = a
    · subst hxa
      simp only [if_pos]
      simp only [Memory.write]
      split
      · split
        · subst_vars
          refine Memory.read_of_lt ?_
          intro c hc
          rcases List.mem_cons.mp hc with rfl | hc
          · assumption
          · have := hk c hc
            omega
        · simp [Memory.read]
      · split
        · split
          · subst_vars
            exact Memory.read_of_lt hk
          · simp [Memory.read]
        · simp only [if_pos] at ih
          rw [Memory.read, if_neg (by omega), ih]
    · simp only [if_neg hxa] at ih ⊢
      simp only [Memory.write]
      split
      · split
        · rfl
        · rw [Memory.read, if_neg (by omega)]
      · split
        · subst_vars
          split
          · rw [Memory.read, if_neg (by omega)]
          · rw [Memory.read, if_neg (by omega), Memory.read, if_neg (by omega)]
        · by_cases hkx : k = x
          · simp [Memory.read, hkx]
          · rw [Memory.read, if_neg hkx, ih, Memory.read, if_neg hkx]

/-- A read after a sequence of bytes is written. -/
theorem Memory.read_writeBytes {m : Memory} (h : Memory.wf m) (a x : Nat) (bs : List Byte) :
    Memory.read (Memory.writeBytes m a bs) x =
      if a ≤ x then (bs[x - a]?).getD (Memory.read m x) else Memory.read m x := by
  induction bs generalizing m a with
  | nil => simp [Memory.writeBytes]
  | cons b bs ih =>
    rw [Memory.writeBytes, ih (Memory.write_wf h a b), Memory.read_write h]
    by_cases h1 : a + 1 ≤ x
    · have h2 : x - a = (x - (a + 1)) + 1 := by omega
      have h3 : a ≤ x := by omega
      have h4 : ¬x = a := by omega
      simp [h1, h2, h3, h4]
    · rw [if_neg h1]
      by_cases h2 : x = a
      · simp [h2]
      · rw [if_neg h2, if_neg (by omega)]

theorem Memory.read_writeBytes_inside {m : Memory} (h : Memory.wf m) {a x : Nat} {bs : List Byte} {b : Byte}
    (hx : a ≤ x) (hb : bs[x - a]? = some b) : Memory.read (Memory.writeBytes m a bs) x = b := by
  rw [Memory.read_writeBytes h, if_pos hx, hb]
  rfl

theorem Memory.read_writeBytes_outside {m : Memory} (h : Memory.wf m) {a x : Nat} {bs : List Byte}
    (hx : x < a ∨ a + bs.length ≤ x) : Memory.read (Memory.writeBytes m a bs) x = Memory.read m x := by
  rw [Memory.read_writeBytes h]
  split
  · rw [List.getElem?_eq_none (by omega)]
    rfl
  · rfl

theorem Memory.read_filter {m : Memory} (p : Nat → Bool) (x : Nat) :
    Memory.read (m.filter fun c => p c.1) x = if p x then Memory.read m x else unlistedByte := by
  induction m with
  | nil => simp [Memory.read]
  | cons d m ih =>
    obtain ⟨k, v⟩ := d
    by_cases hp : p k
    · rw [List.filter_cons_of_pos (by simpa using hp), Memory.read, Memory.read]
      by_cases hk : k = x
      · subst hk
        simp [hp]
      · rw [if_neg hk, if_neg hk, ih]
    · rw [List.filter_cons_of_neg (by simpa using hp), ih, Memory.read]
      by_cases hk : k = x
      · subst hk
        simp [hp]
      · rw [if_neg hk]

/-- A read after a fill: the filled byte inside, the old byte outside (R66). -/
theorem Memory.read_fill {m : Memory} (h : Memory.wf m) (a n x : Nat) (b : Byte) :
    Memory.read (Memory.fill m a n b) x = if a ≤ x ∧ x < a + n then b else Memory.read m x := by
  unfold Memory.fill
  split
  · subst_vars
    rw [Memory.read_filter (fun k => k < a || a + n ≤ k) x]
    by_cases hx : a ≤ x ∧ x < a + n
    · simp [hx]
    · simp only [if_neg hx]
      rw [if_pos]
      simp
      omega
  · by_cases hx : a ≤ x ∧ x < a + n
    · rw [if_pos hx]
      refine Memory.read_writeBytes_inside h hx.1 ?_
      rw [List.getElem?_replicate, if_pos (by omega)]
    · rw [if_neg hx]
      refine Memory.read_writeBytes_outside h ?_
      simp
      omega

@[simp] theorem Memory.readBytes_length (m : Memory) (a n : Nat) : (Memory.readBytes m a n).length = n := by
  induction n generalizing a with
  | zero => rfl
  | succ n ih => simp [Memory.readBytes, ih]

/-- The `i`-th byte read is the byte at the `i`-th address (R64). -/
theorem Memory.readBytes_getElem? (m : Memory) (a n i : Nat) :
    (Memory.readBytes m a n)[i]? = if i < n then some (Memory.read m (a + i)) else none := by
  induction n generalizing a i with
  | zero => simp [Memory.readBytes]
  | succ n ih =>
    cases i with
    | zero => simp [Memory.readBytes]
    | succ i =>
      rw [Memory.readBytes, List.getElem?_cons_succ, ih]
      have : a + 1 + i = a + (i + 1) := by omega
      rw [this]
      by_cases hi : i < n
      · rw [if_pos hi, if_pos (by omega)]
      · rw [if_neg hi, if_neg (by omega)]

/-- Memories that agree on a range read the same bytes there. -/
theorem Memory.readBytes_congr {m m' : Memory} {a n : Nat}
    (h : ∀ x, a ≤ x → x < a + n → Memory.read m x = Memory.read m' x) :
    Memory.readBytes m a n = Memory.readBytes m' a n := by
  induction n generalizing a with
  | zero => rfl
  | succ n ih =>
    rw [Memory.readBytes, Memory.readBytes, h a (by omega) (by omega), ih fun x h1 h2 => h x (by omega) (by omega)]

/-- Bytes written are read back. -/
theorem Memory.readBytes_writeBytes {m : Memory} (h : Memory.wf m) (a : Nat) (bs : List Byte) :
    Memory.readBytes (Memory.writeBytes m a bs) a bs.length = bs := by
  refine List.ext_getElem? fun i => ?_
  rw [Memory.readBytes_getElem?]
  by_cases hi : i < bs.length
  · rw [if_pos hi, Memory.read_writeBytes_inside h (by omega) (b := bs[i])]
    · simp [hi]
    · simp [hi]
  · rw [if_neg hi, List.getElem?_eq_none (by omega)]

/-- A listed address reads as its cell's byte. -/
theorem Memory.read_eq_of_mem {m : Memory} (h : Memory.wf m) {c : Host.Cell} (hc : c ∈ m) :
    Memory.read m c.1 = c.2 := by
  induction m with
  | nil => cases hc
  | cons d m ih =>
    obtain ⟨k, v⟩ := d
    rcases List.mem_cons.mp hc with rfl | hc
    · simp [Memory.read]
    · have := Memory.wf_head_lt h c hc
      rw [Memory.read, if_neg (by omega), ih (Memory.wf_tail h) hc]

theorem Memory.exists_of_read_ne {m : Memory} {a : Nat} (h : Memory.read m a ≠ unlistedByte) :
    ∃ c ∈ m, c.1 = a := by
  induction m with
  | nil => exact absurd rfl h
  | cons d m ih =>
    obtain ⟨k, v⟩ := d
    by_cases hk : k = a
    · exact ⟨(k, v), by simp, hk⟩
    · rw [Memory.read, if_neg hk] at h
      obtain ⟨c, hc, hca⟩ := ih h
      exact ⟨c, List.mem_cons_of_mem _ hc, hca⟩

/-- Two canonical memories that read the same everywhere are the same. -/
theorem Memory.ext_read {m m' : Memory} (h : Memory.wf m) (h' : Memory.wf m')
    (hr : ∀ a, Memory.read m a = Memory.read m' a) : m = m' := by
  induction m generalizing m' with
  | nil =>
    cases m' with
    | nil => rfl
    | cons d m' =>
      have h1 := hr d.1
      rw [Memory.read_eq_of_mem h' (by simp)] at h1
      exact absurd h1.symm (h'.2 d (by simp))
  | cons d m ih =>
    obtain ⟨k, v⟩ := d
    have hv := h.2 (k, v) (by simp)
    have hk : Memory.read m' k = v := by rw [← hr k]; simp [Memory.read]
    obtain ⟨c, hc, hck⟩ := Memory.exists_of_read_ne (m := m') (a := k) (by rw [hk]; exact hv)
    cases m' with
    | nil => cases hc
    | cons d' m' =>
      obtain ⟨k', v'⟩ := d'
      have hv' := h'.2 (k', v') (by simp)
      have hkk : k' = k := by
        rcases List.mem_cons.mp hc with rfl | hc'
        · exact hck
        · have h1 := Memory.wf_head_lt h' c hc'
          have h2 : Memory.read ((k, v) :: m) k' = v' := by rw [hr k']; simp [Memory.read]
          have h3 : Memory.read ((k, v) :: m) k' = unlistedByte := by
            refine Memory.read_of_lt fun e he => ?_
            rcases List.mem_cons.mp he with rfl | he
            · show k' < k
              omega
            · have := Memory.wf_head_lt h e he
              omega
          exact absurd (h2.symm.trans h3) hv'
      subst hkk
      have hvv : v' = v := by simpa [Memory.read] using hk
      subst hvv
      congr 1
      refine ih (Memory.wf_tail h) (Memory.wf_tail h') fun a => ?_
      have h1 := hr a
      by_cases hka : k' = a
      · subst hka
        rw [Memory.read_of_lt (Memory.wf_head_lt h), Memory.read_of_lt (Memory.wf_head_lt h')]
      · rwa [Memory.read, if_neg hka, Memory.read, if_neg hka] at h1

/-! ### Programming and free draws -/

@[simp] theorem Memory.programmed_length (m : Memory) (e : Byte) (a ctr : Nat) (bs : List Byte) :
    (Memory.programmed m e a ctr bs).length = bs.length := by
  induction bs generalizing a ctr with
  | nil => rfl
  | cons b bs ih => simp [Memory.programmed, ih]

/-- What programming leaves at the `i`-th byte (R65). -/
theorem Memory.programmed_getElem? (m : Memory) (e : Byte) (a ctr : Nat) (bs : List Byte) (i : Nat) :
    (Memory.programmed m e a ctr bs)[i]? =
      (bs[i]?).map fun b => if Memory.read m (a + i) = e then b else Config.freeByte (ctr + i) := by
  induction bs generalizing a ctr i with
  | nil => simp [Memory.programmed]
  | cons b bs ih =>
    cases i with
    | zero => simp [Memory.programmed]
    | succ i =>
      rw [Memory.programmed, List.getElem?_cons_succ, ih, List.getElem?_cons_succ]
      have h1 : a + 1 + i = a + (i + 1) := by omega
      have h2 : ctr + 1 + i = ctr + (i + 1) := by omega
      rw [h1, h2]

/-- Programming erased bytes leaves the bytes written (R65). -/
theorem Memory.programmed_erased {m : Memory} {e : Byte} {a : Nat} (ctr : Nat) {bs : List Byte}
    (h : ∀ x, a ≤ x → x < a + bs.length → Memory.read m x = e) :
    Memory.programmed m e a ctr bs = bs := by
  induction bs generalizing a ctr with
  | nil => rfl
  | cons b bs ih =>
    rw [Memory.programmed, if_pos (h a (by omega) (by simp)), ih]
    intro x h1 h2
    exact h x (by omega) (by simp only [List.length_cons]; omega)

@[simp] theorem freeBytes_length (ctr n : Nat) : (freeBytes ctr n).length = n := by
  induction n generalizing ctr with
  | zero => rfl
  | succ n ih => simp [freeBytes, ih]

end Sys2Proof.Machine
end

