-- ==== Sys2Proof/Laws/State.lean ====
section
/-! SUPPORT. One simp lemma per field per state update: what each update leaves in each field. Later proofs
cite these and unfold no update. -/

namespace Sys2Proof.Machine

/-! ### `State.setHandle` -/

@[simp] theorem State.setHandle_cfg (s : State) (h : HandleId) (x : Handle) : (s.setHandle h x).cfg = s.cfg := by cases h <;> rfl
@[simp] theorem State.setHandle_inbox (s : State) (h : HandleId) (x : Handle) : (s.setHandle h x).inbox = s.inbox := by cases h <;> rfl
@[simp] theorem State.setHandle_flash (s : State) (h : HandleId) (x : Handle) : (s.setHandle h x).flash = s.flash := by cases h <;> rfl
@[simp] theorem State.setHandle_spi (s : State) (h : HandleId) (x : Handle) : (s.setHandle h x).spi = s.spi := by cases h <;> rfl
@[simp] theorem State.setHandle_storageFates (s : State) (h : HandleId) (x : Handle) : (s.setHandle h x).storageFates = s.storageFates := by cases h <;> rfl
@[simp] theorem State.setHandle_txFaults (s : State) (h : HandleId) (x : Handle) : (s.setHandle h x).txFaults = s.txFaults := by cases h <;> rfl
@[simp] theorem State.setHandle_readGlitches (s : State) (h : HandleId) (x : Handle) : (s.setHandle h x).readGlitches = s.readGlitches := by cases h <;> rfl
@[simp] theorem State.setHandle_freeCtr (s : State) (h : HandleId) (x : Handle) : (s.setHandle h x).freeCtr = s.freeCtr := by cases h <;> rfl
@[simp] theorem State.setHandle_fb (s : State) (h : HandleId) (x : Handle) : (s.setHandle h x).fb = s.fb := by cases h <;> rfl
@[simp] theorem State.setHandle_flen (s : State) (h : HandleId) (x : Handle) : (s.setHandle h x).flen = s.flen := by cases h <;> rfl
@[simp] theorem State.setHandle_framePresented (s : State) (h : HandleId) (x : Handle) : (s.setHandle h x).framePresented = s.framePresented := by cases h <;> rfl
@[simp] theorem State.setHandle_txq (s : State) (h : HandleId) (x : Handle) : (s.setHandle h x).txq = s.txq := by cases h <;> rfl
@[simp] theorem State.setHandle_tc (s : State) (h : HandleId) (x : Handle) : (s.setHandle h x).tc = s.tc := by cases h <;> rfl
@[simp] theorem State.setHandle_dir (s : State) (h : HandleId) (x : Handle) : (s.setHandle h x).dir = s.dir := by cases h <;> rfl
@[simp] theorem State.setHandle_rbOff (s : State) (h : HandleId) (x : Handle) : (s.setHandle h x).rbOff = s.rbOff := by cases h <;> rfl
@[simp] theorem State.setHandle_sessionOpen (s : State) (h : HandleId) (x : Handle) : (s.setHandle h x).sessionOpen = s.sessionOpen := by cases h <;> rfl
@[simp] theorem State.setHandle_emptyReads (s : State) (h : HandleId) (x : Handle) : (s.setHandle h x).emptyReads = s.emptyReads := by cases h <;> rfl
@[simp] theorem State.setHandle_forceUpdate (s : State) (h : HandleId) (x : Handle) : (s.setHandle h x).forceUpdate = s.forceUpdate := by cases h <;> rfl
@[simp] theorem State.setHandle_corruptApp (s : State) (h : HandleId) (x : Handle) : (s.setHandle h x).corruptApp = s.corruptApp := by cases h <;> rfl
@[simp] theorem State.setHandle_corruptAux (s : State) (h : HandleId) (x : Handle) : (s.setHandle h x).corruptAux = s.corruptAux := by cases h <;> rfl
@[simp] theorem State.setHandle_loadedApp (s : State) (h : HandleId) (x : Handle) : (s.setHandle h x).loadedApp = s.loadedApp := by cases h <;> rfl
@[simp] theorem State.setHandle_loadedAux (s : State) (h : HandleId) (x : Handle) : (s.setHandle h x).loadedAux = s.loadedAux := by cases h <;> rfl
@[simp] theorem State.setHandle_outcome (s : State) (h : HandleId) (x : Handle) : (s.setHandle h x).outcome = s.outcome := by cases h <;> rfl
@[simp] theorem State.setHandle_bcApp (s : State) (h : HandleId) (x : Handle) : (s.setHandle h x).bcApp = s.bcApp := by cases h <;> rfl
@[simp] theorem State.setHandle_bcAux (s : State) (h : HandleId) (x : Handle) : (s.setHandle h x).bcAux = s.bcAux := by cases h <;> rfl
@[simp] theorem State.setHandle_crcAcc (s : State) (h : HandleId) (x : Handle) : (s.setHandle h x).crcAcc = s.crcAcc := by cases h <;> rfl

@[simp] theorem State.setHandle_handle (s : State) (h : HandleId) (x : Handle) :
    (s.setHandle h x).handle h = x := by cases h <;> rfl
theorem State.setHandle_handle_ne (s : State) {h k : HandleId} (x : Handle) (hk : h ≠ k) :
    (s.setHandle h x).handle k = s.handle k := by cases h <;> cases k <;> first | rfl | contradiction
@[simp] theorem State.setHandle_tx_sbTx (s : State) (x : Handle) : (s.setHandle .tx x).sbTx = x := rfl
@[simp] theorem State.setHandle_tx_sbPm (s : State) (x : Handle) : (s.setHandle .tx x).sbPm = s.sbPm := rfl
@[simp] theorem State.setHandle_pm_sbTx (s : State) (x : Handle) : (s.setHandle .pm x).sbTx = s.sbTx := rfl
@[simp] theorem State.setHandle_pm_sbPm (s : State) (x : Handle) : (s.setHandle .pm x).sbPm = x := rfl
@[simp] theorem State.setHandle_store (s : State) (h : HandleId) (x : Handle) (d : Device) :
    (s.setHandle h x).store d = s.store d := by cases h <;> rfl
@[simp] theorem State.setHandle_bc (s : State) (h : HandleId) (x : Handle) (c : Cat) :
    (s.setHandle h x).bc c = s.bc c := by cases h <;> rfl
@[simp] theorem State.setHandle_loaded (s : State) (h : HandleId) (x : Handle) (c : Cat) :
    (s.setHandle h x).loaded c = s.loaded c := by cases h <;> rfl

/-! ### `State.setStore` -/

@[simp] theorem State.setStore_cfg (s : State) (d : Device) (m : Memory) : (s.setStore d m).cfg = s.cfg := by cases d <;> rfl
@[simp] theorem State.setStore_inbox (s : State) (d : Device) (m : Memory) : (s.setStore d m).inbox = s.inbox := by cases d <;> rfl
@[simp] theorem State.setStore_storageFates (s : State) (d : Device) (m : Memory) : (s.setStore d m).storageFates = s.storageFates := by cases d <;> rfl
@[simp] theorem State.setStore_txFaults (s : State) (d : Device) (m : Memory) : (s.setStore d m).txFaults = s.txFaults := by cases d <;> rfl
@[simp] theorem State.setStore_readGlitches (s : State) (d : Device) (m : Memory) : (s.setStore d m).readGlitches = s.readGlitches := by cases d <;> rfl
@[simp] theorem State.setStore_freeCtr (s : State) (d : Device) (m : Memory) : (s.setStore d m).freeCtr = s.freeCtr := by cases d <;> rfl
@[simp] theorem State.setStore_fb (s : State) (d : Device) (m : Memory) : (s.setStore d m).fb = s.fb := by cases d <;> rfl
@[simp] theorem State.setStore_flen (s : State) (d : Device) (m : Memory) : (s.setStore d m).flen = s.flen := by cases d <;> rfl
@[simp] theorem State.setStore_framePresented (s : State) (d : Device) (m : Memory) : (s.setStore d m).framePresented = s.framePresented := by cases d <;> rfl
@[simp] theorem State.setStore_txq (s : State) (d : Device) (m : Memory) : (s.setStore d m).txq = s.txq := by cases d <;> rfl
@[simp] theorem State.setStore_tc (s : State) (d : Device) (m : Memory) : (s.setStore d m).tc = s.tc := by cases d <;> rfl
@[simp] theorem State.setStore_dir (s : State) (d : Device) (m : Memory) : (s.setStore d m).dir = s.dir := by cases d <;> rfl
@[simp] theorem State.setStore_rbOff (s : State) (d : Device) (m : Memory) : (s.setStore d m).rbOff = s.rbOff := by cases d <;> rfl
@[simp] theorem State.setStore_sessionOpen (s : State) (d : Device) (m : Memory) : (s.setStore d m).sessionOpen = s.sessionOpen := by cases d <;> rfl
@[simp] theorem State.setStore_emptyReads (s : State) (d : Device) (m : Memory) : (s.setStore d m).emptyReads = s.emptyReads := by cases d <;> rfl
@[simp] theorem State.setStore_forceUpdate (s : State) (d : Device) (m : Memory) : (s.setStore d m).forceUpdate = s.forceUpdate := by cases d <;> rfl
@[simp] theorem State.setStore_corruptApp (s : State) (d : Device) (m : Memory) : (s.setStore d m).corruptApp = s.corruptApp := by cases d <;> rfl
@[simp] theorem State.setStore_corruptAux (s : State) (d : Device) (m : Memory) : (s.setStore d m).corruptAux = s.corruptAux := by cases d <;> rfl
@[simp] theorem State.setStore_loadedApp (s : State) (d : Device) (m : Memory) : (s.setStore d m).loadedApp = s.loadedApp := by cases d <;> rfl
@[simp] theorem State.setStore_loadedAux (s : State) (d : Device) (m : Memory) : (s.setStore d m).loadedAux = s.loadedAux := by cases d <;> rfl
@[simp] theorem State.setStore_outcome (s : State) (d : Device) (m : Memory) : (s.setStore d m).outcome = s.outcome := by cases d <;> rfl
@[simp] theorem State.setStore_bcApp (s : State) (d : Device) (m : Memory) : (s.setStore d m).bcApp = s.bcApp := by cases d <;> rfl
@[simp] theorem State.setStore_bcAux (s : State) (d : Device) (m : Memory) : (s.setStore d m).bcAux = s.bcAux := by cases d <;> rfl
@[simp] theorem State.setStore_sbTx (s : State) (d : Device) (m : Memory) : (s.setStore d m).sbTx = s.sbTx := by cases d <;> rfl
@[simp] theorem State.setStore_sbPm (s : State) (d : Device) (m : Memory) : (s.setStore d m).sbPm = s.sbPm := by cases d <;> rfl
@[simp] theorem State.setStore_crcAcc (s : State) (d : Device) (m : Memory) : (s.setStore d m).crcAcc = s.crcAcc := by cases d <;> rfl

@[simp] theorem State.setStore_store (s : State) (d : Device) (m : Memory) :
    (s.setStore d m).store d = m := by cases d <;> rfl
theorem State.setStore_store_ne (s : State) {d e : Device} (m : Memory) (h : d ≠ e) :
    (s.setStore d m).store e = s.store e := by cases d <;> cases e <;> first | rfl | contradiction
@[simp] theorem State.setStore_handle (s : State) (d : Device) (m : Memory) (h : HandleId) :
    (s.setStore d m).handle h = s.handle h := by cases d <;> rfl
@[simp] theorem State.setStore_bc (s : State) (d : Device) (m : Memory) (c : Cat) :
    (s.setStore d m).bc c = s.bc c := by cases d <;> rfl
@[simp] theorem State.setStore_loaded (s : State) (d : Device) (m : Memory) (c : Cat) :
    (s.setStore d m).loaded c = s.loaded c := by cases d <;> rfl

/-! ### `State.setBc` -/

@[simp] theorem State.setBc_cfg (s : State) (c : Cat) (ctx : BootContext) : (s.setBc c ctx).cfg = s.cfg := by cases c <;> rfl
@[simp] theorem State.setBc_inbox (s : State) (c : Cat) (ctx : BootContext) : (s.setBc c ctx).inbox = s.inbox := by cases c <;> rfl
@[simp] theorem State.setBc_flash (s : State) (c : Cat) (ctx : BootContext) : (s.setBc c ctx).flash = s.flash := by cases c <;> rfl
@[simp] theorem State.setBc_spi (s : State) (c : Cat) (ctx : BootContext) : (s.setBc c ctx).spi = s.spi := by cases c <;> rfl
@[simp] theorem State.setBc_storageFates (s : State) (c : Cat) (ctx : BootContext) : (s.setBc c ctx).storageFates = s.storageFates := by cases c <;> rfl
@[simp] theorem State.setBc_txFaults (s : State) (c : Cat) (ctx : BootContext) : (s.setBc c ctx).txFaults = s.txFaults := by cases c <;> rfl
@[simp] theorem State.setBc_readGlitches (s : State) (c : Cat) (ctx : BootContext) : (s.setBc c ctx).readGlitches = s.readGlitches := by cases c <;> rfl
@[simp] theorem State.setBc_freeCtr (s : State) (c : Cat) (ctx : BootContext) : (s.setBc c ctx).freeCtr = s.freeCtr := by cases c <;> rfl
@[simp] theorem State.setBc_fb (s : State) (c : Cat) (ctx : BootContext) : (s.setBc c ctx).fb = s.fb := by cases c <;> rfl
@[simp] theorem State.setBc_flen (s : State) (c : Cat) (ctx : BootContext) : (s.setBc c ctx).flen = s.flen := by cases c <;> rfl
@[simp] theorem State.setBc_framePresented (s : State) (c : Cat) (ctx : BootContext) : (s.setBc c ctx).framePresented = s.framePresented := by cases c <;> rfl
@[simp] theorem State.setBc_txq (s : State) (c : Cat) (ctx : BootContext) : (s.setBc c ctx).txq = s.txq := by cases c <;> rfl
@[simp] theorem State.setBc_tc (s : State) (c : Cat) (ctx : BootContext) : (s.setBc c ctx).tc = s.tc := by cases c <;> rfl
@[simp] theorem State.setBc_dir (s : State) (c : Cat) (ctx : BootContext) : (s.setBc c ctx).dir = s.dir := by cases c <;> rfl
@[simp] theorem State.setBc_rbOff (s : State) (c : Cat) (ctx : BootContext) : (s.setBc c ctx).rbOff = s.rbOff := by cases c <;> rfl
@[simp] theorem State.setBc_sessionOpen (s : State) (c : Cat) (ctx : BootContext) : (s.setBc c ctx).sessionOpen = s.sessionOpen := by cases c <;> rfl
@[simp] theorem State.setBc_emptyReads (s : State) (c : Cat) (ctx : BootContext) : (s.setBc c ctx).emptyReads = s.emptyReads := by cases c <;> rfl
@[simp] theorem State.setBc_forceUpdate (s : State) (c : Cat) (ctx : BootContext) : (s.setBc c ctx).forceUpdate = s.forceUpdate := by cases c <;> rfl
@[simp] theorem State.setBc_corruptApp (s : State) (c : Cat) (ctx : BootContext) : (s.setBc c ctx).corruptApp = s.corruptApp := by cases c <;> rfl
@[simp] theorem State.setBc_corruptAux (s : State) (c : Cat) (ctx : BootContext) : (s.setBc c ctx).corruptAux = s.corruptAux := by cases c <;> rfl
@[simp] theorem State.setBc_loadedApp (s : State) (c : Cat) (ctx : BootContext) : (s.setBc c ctx).loadedApp = s.loadedApp := by cases c <;> rfl
@[simp] theorem State.setBc_loadedAux (s : State) (c : Cat) (ctx : BootContext) : (s.setBc c ctx).loadedAux = s.loadedAux := by cases c <;> rfl
@[simp] theorem State.setBc_outcome (s : State) (c : Cat) (ctx : BootContext) : (s.setBc c ctx).outcome = s.outcome := by cases c <;> rfl
@[simp] theorem State.setBc_sbTx (s : State) (c : Cat) (ctx : BootContext) : (s.setBc c ctx).sbTx = s.sbTx := by cases c <;> rfl
@[simp] theorem State.setBc_sbPm (s : State) (c : Cat) (ctx : BootContext) : (s.setBc c ctx).sbPm = s.sbPm := by cases c <;> rfl
@[simp] theorem State.setBc_crcAcc (s : State) (c : Cat) (ctx : BootContext) : (s.setBc c ctx).crcAcc = s.crcAcc := by cases c <;> rfl

@[simp] theorem State.setBc_bc (s : State) (c : Cat) (ctx : BootContext) : (s.setBc c ctx).bc c = ctx := by
  cases c <;> rfl
theorem State.setBc_bc_ne (s : State) {c e : Cat} (ctx : BootContext) (h : c ≠ e) :
    (s.setBc c ctx).bc e = s.bc e := by cases c <;> cases e <;> first | rfl | contradiction
@[simp] theorem State.setBc_store (s : State) (c : Cat) (ctx : BootContext) (d : Device) :
    (s.setBc c ctx).store d = s.store d := by cases c <;> rfl
@[simp] theorem State.setBc_handle (s : State) (c : Cat) (ctx : BootContext) (h : HandleId) :
    (s.setBc c ctx).handle h = s.handle h := by cases c <;> rfl
@[simp] theorem State.setBc_loaded (s : State) (c e : Cat) (ctx : BootContext) :
    (s.setBc c ctx).loaded e = s.loaded e := by cases c <;> rfl

/-! ### `State.setLoaded` -/

@[simp] theorem State.setLoaded_cfg (s : State) (c : Cat) : (s.setLoaded c).cfg = s.cfg := by cases c <;> rfl
@[simp] theorem State.setLoaded_inbox (s : State) (c : Cat) : (s.setLoaded c).inbox = s.inbox := by cases c <;> rfl
@[simp] theorem State.setLoaded_flash (s : State) (c : Cat) : (s.setLoaded c).flash = s.flash := by cases c <;> rfl
@[simp] theorem State.setLoaded_spi (s : State) (c : Cat) : (s.setLoaded c).spi = s.spi := by cases c <;> rfl
@[simp] theorem State.setLoaded_storageFates (s : State) (c : Cat) : (s.setLoaded c).storageFates = s.storageFates := by cases c <;> rfl
@[simp] theorem State.setLoaded_txFaults (s : State) (c : Cat) : (s.setLoaded c).txFaults = s.txFaults := by cases c <;> rfl
@[simp] theorem State.setLoaded_readGlitches (s : State) (c : Cat) : (s.setLoaded c).readGlitches = s.readGlitches := by cases c <;> rfl
@[simp] theorem State.setLoaded_freeCtr (s : State) (c : Cat) : (s.setLoaded c).freeCtr = s.freeCtr := by cases c <;> rfl
@[simp] theorem State.setLoaded_fb (s : State) (c : Cat) : (s.setLoaded c).fb = s.fb := by cases c <;> rfl
@[simp] theorem State.setLoaded_flen (s : State) (c : Cat) : (s.setLoaded c).flen = s.flen := by cases c <;> rfl
@[simp] theorem State.setLoaded_framePresented (s : State) (c : Cat) : (s.setLoaded c).framePresented = s.framePresented := by cases c <;> rfl
@[simp] theorem State.setLoaded_txq (s : State) (c : Cat) : (s.setLoaded c).txq = s.txq := by cases c <;> rfl
@[simp] theorem State.setLoaded_tc (s : State) (c : Cat) : (s.setLoaded c).tc = s.tc := by cases c <;> rfl
@[simp] theorem State.setLoaded_dir (s : State) (c : Cat) : (s.setLoaded c).dir = s.dir := by cases c <;> rfl
@[simp] theorem State.setLoaded_rbOff (s : State) (c : Cat) : (s.setLoaded c).rbOff = s.rbOff := by cases c <;> rfl
@[simp] theorem State.setLoaded_sessionOpen (s : State) (c : Cat) : (s.setLoaded c).sessionOpen = s.sessionOpen := by cases c <;> rfl
@[simp] theorem State.setLoaded_emptyReads (s : State) (c : Cat) : (s.setLoaded c).emptyReads = s.emptyReads := by cases c <;> rfl
@[simp] theorem State.setLoaded_forceUpdate (s : State) (c : Cat) : (s.setLoaded c).forceUpdate = s.forceUpdate := by cases c <;> rfl
@[simp] theorem State.setLoaded_corruptApp (s : State) (c : Cat) : (s.setLoaded c).corruptApp = s.corruptApp := by cases c <;> rfl
@[simp] theorem State.setLoaded_corruptAux (s : State) (c : Cat) : (s.setLoaded c).corruptAux = s.corruptAux := by cases c <;> rfl
@[simp] theorem State.setLoaded_outcome (s : State) (c : Cat) : (s.setLoaded c).outcome = s.outcome := by cases c <;> rfl
@[simp] theorem State.setLoaded_bcApp (s : State) (c : Cat) : (s.setLoaded c).bcApp = s.bcApp := by cases c <;> rfl
@[simp] theorem State.setLoaded_bcAux (s : State) (c : Cat) : (s.setLoaded c).bcAux = s.bcAux := by cases c <;> rfl
@[simp] theorem State.setLoaded_sbTx (s : State) (c : Cat) : (s.setLoaded c).sbTx = s.sbTx := by cases c <;> rfl
@[simp] theorem State.setLoaded_sbPm (s : State) (c : Cat) : (s.setLoaded c).sbPm = s.sbPm := by cases c <;> rfl
@[simp] theorem State.setLoaded_crcAcc (s : State) (c : Cat) : (s.setLoaded c).crcAcc = s.crcAcc := by cases c <;> rfl

@[simp] theorem State.setLoaded_loaded (s : State) (c : Cat) : (s.setLoaded c).loaded c = true := by
  cases c <;> rfl
theorem State.setLoaded_mono (s : State) (c e : Cat) (h : s.loaded e = true) :
    (s.setLoaded c).loaded e = true := by cases c <;> cases e <;> first | rfl | exact h
@[simp] theorem State.setLoaded_bc (s : State) (c e : Cat) : (s.setLoaded c).bc e = s.bc e := by
  cases c <;> rfl
@[simp] theorem State.setLoaded_store (s : State) (c : Cat) (d : Device) :
    (s.setLoaded c).store d = s.store d := by cases c <;> rfl
@[simp] theorem State.setLoaded_handle (s : State) (c : Cat) (h : HandleId) :
    (s.setLoaded c).handle h = s.handle h := by cases c <;> rfl

/-! ### `State.markCorrupt` -/

@[simp] theorem State.markCorrupt_cfg (s : State) (c : Cat) : (s.markCorrupt c).cfg = s.cfg := by cases c <;> rfl
@[simp] theorem State.markCorrupt_inbox (s : State) (c : Cat) : (s.markCorrupt c).inbox = s.inbox := by cases c <;> rfl
@[simp] theorem State.markCorrupt_flash (s : State) (c : Cat) : (s.markCorrupt c).flash = s.flash := by cases c <;> rfl
@[simp] theorem State.markCorrupt_spi (s : State) (c : Cat) : (s.markCorrupt c).spi = s.spi := by cases c <;> rfl
@[simp] theorem State.markCorrupt_storageFates (s : State) (c : Cat) : (s.markCorrupt c).storageFates = s.storageFates := by cases c <;> rfl
@[simp] theorem State.markCorrupt_txFaults (s : State) (c : Cat) : (s.markCorrupt c).txFaults = s.txFaults := by cases c <;> rfl
@[simp] theorem State.markCorrupt_readGlitches (s : State) (c : Cat) : (s.markCorrupt c).readGlitches = s.readGlitches := by cases c <;> rfl
@[simp] theorem State.markCorrupt_freeCtr (s : State) (c : Cat) : (s.markCorrupt c).freeCtr = s.freeCtr := by cases c <;> rfl
@[simp] theorem State.markCorrupt_fb (s : State) (c : Cat) : (s.markCorrupt c).fb = s.fb := by cases c <;> rfl
@[simp] theorem State.markCorrupt_flen (s : State) (c : Cat) : (s.markCorrupt c).flen = s.flen := by cases c <;> rfl
@[simp] theorem State.markCorrupt_framePresented (s : State) (c : Cat) : (s.markCorrupt c).framePresented = s.framePresented := by cases c <;> rfl
@[simp] theorem State.markCorrupt_txq (s : State) (c : Cat) : (s.markCorrupt c).txq = s.txq := by cases c <;> rfl
@[simp] theorem State.markCorrupt_tc (s : State) (c : Cat) : (s.markCorrupt c).tc = s.tc := by cases c <;> rfl
@[simp] theorem State.markCorrupt_dir (s : State) (c : Cat) : (s.markCorrupt c).dir = s.dir := by cases c <;> rfl
@[simp] theorem State.markCorrupt_rbOff (s : State) (c : Cat) : (s.markCorrupt c).rbOff = s.rbOff := by cases c <;> rfl
@[simp] theorem State.markCorrupt_sessionOpen (s : State) (c : Cat) : (s.markCorrupt c).sessionOpen = s.sessionOpen := by cases c <;> rfl
@[simp] theorem State.markCorrupt_emptyReads (s : State) (c : Cat) : (s.markCorrupt c).emptyReads = s.emptyReads := by cases c <;> rfl
@[simp] theorem State.markCorrupt_loadedApp (s : State) (c : Cat) : (s.markCorrupt c).loadedApp = s.loadedApp := by cases c <;> rfl
@[simp] theorem State.markCorrupt_loadedAux (s : State) (c : Cat) : (s.markCorrupt c).loadedAux = s.loadedAux := by cases c <;> rfl
@[simp] theorem State.markCorrupt_outcome (s : State) (c : Cat) : (s.markCorrupt c).outcome = s.outcome := by cases c <;> rfl
@[simp] theorem State.markCorrupt_bcApp (s : State) (c : Cat) : (s.markCorrupt c).bcApp = s.bcApp := by cases c <;> rfl
@[simp] theorem State.markCorrupt_bcAux (s : State) (c : Cat) : (s.markCorrupt c).bcAux = s.bcAux := by cases c <;> rfl
@[simp] theorem State.markCorrupt_sbTx (s : State) (c : Cat) : (s.markCorrupt c).sbTx = s.sbTx := by cases c <;> rfl
@[simp] theorem State.markCorrupt_sbPm (s : State) (c : Cat) : (s.markCorrupt c).sbPm = s.sbPm := by cases c <;> rfl
@[simp] theorem State.markCorrupt_crcAcc (s : State) (c : Cat) : (s.markCorrupt c).crcAcc = s.crcAcc := by cases c <;> rfl

@[simp] theorem State.markCorrupt_corrupt (s : State) (c : Cat) : (s.markCorrupt c).corrupt c = true := by
  cases c <;> rfl
@[simp] theorem State.markCorrupt_app_forceUpdate (s : State) : (s.markCorrupt .app).forceUpdate = true := rfl
@[simp] theorem State.markCorrupt_aux_forceUpdate (s : State) :
    (s.markCorrupt .aux).forceUpdate = s.forceUpdate := rfl
@[simp] theorem State.markCorrupt_bc (s : State) (c e : Cat) : (s.markCorrupt c).bc e = s.bc e := by
  cases c <;> rfl
@[simp] theorem State.markCorrupt_store (s : State) (c : Cat) (d : Device) :
    (s.markCorrupt c).store d = s.store d := by cases c <;> rfl
@[simp] theorem State.markCorrupt_handle (s : State) (c : Cat) (h : HandleId) :
    (s.markCorrupt c).handle h = s.handle h := by cases c <;> rfl
@[simp] theorem State.markCorrupt_loaded (s : State) (c e : Cat) :
    (s.markCorrupt c).loaded e = s.loaded e := by cases c <;> rfl

/-! ### `State.closeSession` -/

@[simp] theorem State.closeSession_cfg (s : State) : (s.closeSession).cfg = s.cfg := rfl
@[simp] theorem State.closeSession_inbox (s : State) : (s.closeSession).inbox = s.inbox := rfl
@[simp] theorem State.closeSession_flash (s : State) : (s.closeSession).flash = s.flash := rfl
@[simp] theorem State.closeSession_spi (s : State) : (s.closeSession).spi = s.spi := rfl
@[simp] theorem State.closeSession_storageFates (s : State) : (s.closeSession).storageFates = s.storageFates := rfl
@[simp] theorem State.closeSession_txFaults (s : State) : (s.closeSession).txFaults = s.txFaults := rfl
@[simp] theorem State.closeSession_readGlitches (s : State) : (s.closeSession).readGlitches = s.readGlitches := rfl
@[simp] theorem State.closeSession_freeCtr (s : State) : (s.closeSession).freeCtr = s.freeCtr := rfl
@[simp] theorem State.closeSession_fb (s : State) : (s.closeSession).fb = s.fb := rfl
@[simp] theorem State.closeSession_flen (s : State) : (s.closeSession).flen = s.flen := rfl
@[simp] theorem State.closeSession_framePresented (s : State) : (s.closeSession).framePresented = s.framePresented := rfl
@[simp] theorem State.closeSession_txq (s : State) : (s.closeSession).txq = s.txq := rfl
@[simp] theorem State.closeSession_tc (s : State) : (s.closeSession).tc = s.tc := rfl
@[simp] theorem State.closeSession_dir (s : State) : (s.closeSession).dir = s.dir := rfl
@[simp] theorem State.closeSession_rbOff (s : State) : (s.closeSession).rbOff = s.rbOff := rfl
@[simp] theorem State.closeSession_sessionOpen (s : State) : (s.closeSession).sessionOpen = false := rfl
@[simp] theorem State.closeSession_emptyReads (s : State) : (s.closeSession).emptyReads = s.emptyReads := rfl
@[simp] theorem State.closeSession_forceUpdate (s : State) : (s.closeSession).forceUpdate = s.forceUpdate := rfl
@[simp] theorem State.closeSession_corruptApp (s : State) : (s.closeSession).corruptApp = s.corruptApp := rfl
@[simp] theorem State.closeSession_corruptAux (s : State) : (s.closeSession).corruptAux = s.corruptAux := rfl
@[simp] theorem State.closeSession_loadedApp (s : State) : (s.closeSession).loadedApp = s.loadedApp := rfl
@[simp] theorem State.closeSession_loadedAux (s : State) : (s.closeSession).loadedAux = s.loadedAux := rfl
@[simp] theorem State.closeSession_outcome (s : State) : (s.closeSession).outcome = s.outcome := rfl
@[simp] theorem State.closeSession_bcApp (s : State) : (s.closeSession).bcApp = s.bcApp := rfl
@[simp] theorem State.closeSession_bcAux (s : State) : (s.closeSession).bcAux = s.bcAux := rfl
@[simp] theorem State.closeSession_sbTx (s : State) : (s.closeSession).sbTx = s.sbTx := rfl
@[simp] theorem State.closeSession_sbPm (s : State) : (s.closeSession).sbPm = s.sbPm := rfl
@[simp] theorem State.closeSession_crcAcc (s : State) : (s.closeSession).crcAcc = s.crcAcc := rfl

@[simp] theorem State.closeSession_store (s : State) (d : Device) : (s.closeSession).store d = s.store d := rfl
@[simp] theorem State.closeSession_handle (s : State) (h : HandleId) : (s.closeSession).handle h = s.handle h := rfl
@[simp] theorem State.closeSession_bc (s : State) (c : Cat) : (s.closeSession).bc c = s.bc c := rfl
@[simp] theorem State.closeSession_loaded (s : State) (c : Cat) : (s.closeSession).loaded c = s.loaded c := rfl

/-! ### `State.clearEmptyReads` -/

@[simp] theorem State.clearEmptyReads_cfg (s : State) : (s.clearEmptyReads).cfg = s.cfg := rfl
@[simp] theorem State.clearEmptyReads_inbox (s : State) : (s.clearEmptyReads).inbox = s.inbox := rfl
@[simp] theorem State.clearEmptyReads_flash (s : State) : (s.clearEmptyReads).flash = s.flash := rfl
@[simp] theorem State.clearEmptyReads_spi (s : State) : (s.clearEmptyReads).spi = s.spi := rfl
@[simp] theorem State.clearEmptyReads_storageFates (s : State) : (s.clearEmptyReads).storageFates = s.storageFates := rfl
@[simp] theorem State.clearEmptyReads_txFaults (s : State) : (s.clearEmptyReads).txFaults = s.txFaults := rfl
@[simp] theorem State.clearEmptyReads_readGlitches (s : State) : (s.clearEmptyReads).readGlitches = s.readGlitches := rfl
@[simp] theorem State.clearEmptyReads_freeCtr (s : State) : (s.clearEmptyReads).freeCtr = s.freeCtr := rfl
@[simp] theorem State.clearEmptyReads_fb (s : State) : (s.clearEmptyReads).fb = s.fb := rfl
@[simp] theorem State.clearEmptyReads_flen (s : State) : (s.clearEmptyReads).flen = s.flen := rfl
@[simp] theorem State.clearEmptyReads_framePresented (s : State) : (s.clearEmptyReads).framePresented = s.framePresented := rfl
@[simp] theorem State.clearEmptyReads_txq (s : State) : (s.clearEmptyReads).txq = s.txq := rfl
@[simp] theorem State.clearEmptyReads_tc (s : State) : (s.clearEmptyReads).tc = s.tc := rfl
@[simp] theorem State.clearEmptyReads_dir (s : State) : (s.clearEmptyReads).dir = s.dir := rfl
@[simp] theorem State.clearEmptyReads_rbOff (s : State) : (s.clearEmptyReads).rbOff = s.rbOff := rfl
@[simp] theorem State.clearEmptyReads_sessionOpen (s : State) : (s.clearEmptyReads).sessionOpen = s.sessionOpen := rfl
@[simp] theorem State.clearEmptyReads_emptyReads (s : State) : (s.clearEmptyReads).emptyReads = false := rfl
@[simp] theorem State.clearEmptyReads_forceUpdate (s : State) : (s.clearEmptyReads).forceUpdate = s.forceUpdate := rfl
@[simp] theorem State.clearEmptyReads_corruptApp (s : State) : (s.clearEmptyReads).corruptApp = s.corruptApp := rfl
@[simp] theorem State.clearEmptyReads_corruptAux (s : State) : (s.clearEmptyReads).corruptAux = s.corruptAux := rfl
@[simp] theorem State.clearEmptyReads_loadedApp (s : State) : (s.clearEmptyReads).loadedApp = s.loadedApp := rfl
@[simp] theorem State.clearEmptyReads_loadedAux (s : State) : (s.clearEmptyReads).loadedAux = s.loadedAux := rfl
@[simp] theorem State.clearEmptyReads_outcome (s : State) : (s.clearEmptyReads).outcome = s.outcome := rfl
@[simp] theorem State.clearEmptyReads_bcApp (s : State) : (s.clearEmptyReads).bcApp = s.bcApp := rfl
@[simp] theorem State.clearEmptyReads_bcAux (s : State) : (s.clearEmptyReads).bcAux = s.bcAux := rfl
@[simp] theorem State.clearEmptyReads_sbTx (s : State) : (s.clearEmptyReads).sbTx = s.sbTx := rfl
@[simp] theorem State.clearEmptyReads_sbPm (s : State) : (s.clearEmptyReads).sbPm = s.sbPm := rfl
@[simp] theorem State.clearEmptyReads_crcAcc (s : State) : (s.clearEmptyReads).crcAcc = s.crcAcc := rfl

@[simp] theorem State.clearEmptyReads_store (s : State) (d : Device) : (s.clearEmptyReads).store d = s.store d := rfl
@[simp] theorem State.clearEmptyReads_handle (s : State) (h : HandleId) : (s.clearEmptyReads).handle h = s.handle h := rfl
@[simp] theorem State.clearEmptyReads_bc (s : State) (c : Cat) : (s.clearEmptyReads).bc c = s.bc c := rfl
@[simp] theorem State.clearEmptyReads_loaded (s : State) (c : Cat) : (s.clearEmptyReads).loaded c = s.loaded c := rfl

/-! ### `State.markCrcReceived` -/

@[simp] theorem State.markCrcReceived_cfg (s : State) : (s.markCrcReceived).cfg = s.cfg := rfl
@[simp] theorem State.markCrcReceived_inbox (s : State) : (s.markCrcReceived).inbox = s.inbox := rfl
@[simp] theorem State.markCrcReceived_flash (s : State) : (s.markCrcReceived).flash = s.flash := rfl
@[simp] theorem State.markCrcReceived_spi (s : State) : (s.markCrcReceived).spi = s.spi := rfl
@[simp] theorem State.markCrcReceived_storageFates (s : State) : (s.markCrcReceived).storageFates = s.storageFates := rfl
@[simp] theorem State.markCrcReceived_txFaults (s : State) : (s.markCrcReceived).txFaults = s.txFaults := rfl
@[simp] theorem State.markCrcReceived_readGlitches (s : State) : (s.markCrcReceived).readGlitches = s.readGlitches := rfl
@[simp] theorem State.markCrcReceived_freeCtr (s : State) : (s.markCrcReceived).freeCtr = s.freeCtr := rfl
@[simp] theorem State.markCrcReceived_fb (s : State) : (s.markCrcReceived).fb = s.fb := rfl
@[simp] theorem State.markCrcReceived_flen (s : State) : (s.markCrcReceived).flen = s.flen := rfl
@[simp] theorem State.markCrcReceived_framePresented (s : State) : (s.markCrcReceived).framePresented = s.framePresented := rfl
@[simp] theorem State.markCrcReceived_txq (s : State) : (s.markCrcReceived).txq = s.txq := rfl
@[simp] theorem State.markCrcReceived_tc (s : State) : (s.markCrcReceived).tc = { s.tc with crcReceived := true } := rfl
@[simp] theorem State.markCrcReceived_dir (s : State) : (s.markCrcReceived).dir = s.dir := rfl
@[simp] theorem State.markCrcReceived_rbOff (s : State) : (s.markCrcReceived).rbOff = s.rbOff := rfl
@[simp] theorem State.markCrcReceived_sessionOpen (s : State) : (s.markCrcReceived).sessionOpen = s.sessionOpen := rfl
@[simp] theorem State.markCrcReceived_emptyReads (s : State) : (s.markCrcReceived).emptyReads = s.emptyReads := rfl
@[simp] theorem State.markCrcReceived_forceUpdate (s : State) : (s.markCrcReceived).forceUpdate = s.forceUpdate := rfl
@[simp] theorem State.markCrcReceived_corruptApp (s : State) : (s.markCrcReceived).corruptApp = s.corruptApp := rfl
@[simp] theorem State.markCrcReceived_corruptAux (s : State) : (s.markCrcReceived).corruptAux = s.corruptAux := rfl
@[simp] theorem State.markCrcReceived_loadedApp (s : State) : (s.markCrcReceived).loadedApp = s.loadedApp := rfl
@[simp] theorem State.markCrcReceived_loadedAux (s : State) : (s.markCrcReceived).loadedAux = s.loadedAux := rfl
@[simp] theorem State.markCrcReceived_outcome (s : State) : (s.markCrcReceived).outcome = s.outcome := rfl
@[simp] theorem State.markCrcReceived_bcApp (s : State) : (s.markCrcReceived).bcApp = s.bcApp := rfl
@[simp] theorem State.markCrcReceived_bcAux (s : State) : (s.markCrcReceived).bcAux = s.bcAux := rfl
@[simp] theorem State.markCrcReceived_sbTx (s : State) : (s.markCrcReceived).sbTx = s.sbTx := rfl
@[simp] theorem State.markCrcReceived_sbPm (s : State) : (s.markCrcReceived).sbPm = s.sbPm := rfl
@[simp] theorem State.markCrcReceived_crcAcc (s : State) : (s.markCrcReceived).crcAcc = s.crcAcc := rfl

@[simp] theorem State.markCrcReceived_store (s : State) (d : Device) : (s.markCrcReceived).store d = s.store d := rfl
@[simp] theorem State.markCrcReceived_handle (s : State) (h : HandleId) : (s.markCrcReceived).handle h = s.handle h := rfl
@[simp] theorem State.markCrcReceived_bc (s : State) (c : Cat) : (s.markCrcReceived).bc c = s.bc c := rfl
@[simp] theorem State.markCrcReceived_loaded (s : State) (c : Cat) : (s.markCrcReceived).loaded c = s.loaded c := rfl

/-! ### `contextReset` -/

@[simp] theorem contextReset_cfg (s : State) : (contextReset s).cfg = s.cfg := rfl
@[simp] theorem contextReset_inbox (s : State) : (contextReset s).inbox = s.inbox := rfl
@[simp] theorem contextReset_flash (s : State) : (contextReset s).flash = s.flash := rfl
@[simp] theorem contextReset_spi (s : State) : (contextReset s).spi = s.spi := rfl
@[simp] theorem contextReset_storageFates (s : State) : (contextReset s).storageFates = s.storageFates := rfl
@[simp] theorem contextReset_txFaults (s : State) : (contextReset s).txFaults = s.txFaults := rfl
@[simp] theorem contextReset_readGlitches (s : State) : (contextReset s).readGlitches = s.readGlitches := rfl
@[simp] theorem contextReset_freeCtr (s : State) : (contextReset s).freeCtr = s.freeCtr := rfl
@[simp] theorem contextReset_fb (s : State) : (contextReset s).fb = s.fb := rfl
@[simp] theorem contextReset_flen (s : State) : (contextReset s).flen = s.flen := rfl
@[simp] theorem contextReset_framePresented (s : State) : (contextReset s).framePresented = s.framePresented := rfl
@[simp] theorem contextReset_txq (s : State) : (contextReset s).txq = s.txq := rfl
@[simp] theorem contextReset_tc (s : State) : (contextReset s).tc = TransferContext.blank := rfl
@[simp] theorem contextReset_dir (s : State) : (contextReset s).dir = .noDir := rfl
@[simp] theorem contextReset_rbOff (s : State) : (contextReset s).rbOff = 0 := rfl
@[simp] theorem contextReset_sessionOpen (s : State) : (contextReset s).sessionOpen = s.sessionOpen := rfl
@[simp] theorem contextReset_emptyReads (s : State) : (contextReset s).emptyReads = s.emptyReads := rfl
@[simp] theorem contextReset_forceUpdate (s : State) : (contextReset s).forceUpdate = s.forceUpdate := rfl
@[simp] theorem contextReset_corruptApp (s : State) : (contextReset s).corruptApp = s.corruptApp := rfl
@[simp] theorem contextReset_corruptAux (s : State) : (contextReset s).corruptAux = s.corruptAux := rfl
@[simp] theorem contextReset_loadedApp (s : State) : (contextReset s).loadedApp = s.loadedApp := rfl
@[simp] theorem contextReset_loadedAux (s : State) : (contextReset s).loadedAux = s.loadedAux := rfl
@[simp] theorem contextReset_outcome (s : State) : (contextReset s).outcome = s.outcome := rfl
@[simp] theorem contextReset_bcApp (s : State) : (contextReset s).bcApp = s.bcApp := rfl
@[simp] theorem contextReset_bcAux (s : State) : (contextReset s).bcAux = s.bcAux := rfl
@[simp] theorem contextReset_sbTx (s : State) : (contextReset s).sbTx = if s.sbTx.bound then s.sbTx.close else s.sbTx := rfl
@[simp] theorem contextReset_sbPm (s : State) : (contextReset s).sbPm = s.sbPm := rfl
@[simp] theorem contextReset_crcAcc (s : State) : (contextReset s).crcAcc = s.crcAcc := rfl

@[simp] theorem contextReset_store (s : State) (d : Device) : (contextReset s).store d = s.store d := rfl
@[simp] theorem contextReset_bc (s : State) (c : Cat) : (contextReset s).bc c = s.bc c := rfl
@[simp] theorem contextReset_loaded (s : State) (c : Cat) : (contextReset s).loaded c = s.loaded c := rfl

/-! ### `State.push` -/

@[simp] theorem State.push_cfg (s : State) (f : List Byte) : (s.push f).cfg = s.cfg := rfl
@[simp] theorem State.push_inbox (s : State) (f : List Byte) : (s.push f).inbox = s.inbox := rfl
@[simp] theorem State.push_flash (s : State) (f : List Byte) : (s.push f).flash = s.flash := rfl
@[simp] theorem State.push_spi (s : State) (f : List Byte) : (s.push f).spi = s.spi := rfl
@[simp] theorem State.push_storageFates (s : State) (f : List Byte) : (s.push f).storageFates = s.storageFates := rfl
@[simp] theorem State.push_txFaults (s : State) (f : List Byte) : (s.push f).txFaults = s.txFaults.tail := rfl
@[simp] theorem State.push_readGlitches (s : State) (f : List Byte) : (s.push f).readGlitches = s.readGlitches := rfl
@[simp] theorem State.push_freeCtr (s : State) (f : List Byte) : (s.push f).freeCtr = s.freeCtr := rfl
@[simp] theorem State.push_fb (s : State) (f : List Byte) : (s.push f).fb = s.fb := rfl
@[simp] theorem State.push_flen (s : State) (f : List Byte) : (s.push f).flen = s.flen := rfl
@[simp] theorem State.push_framePresented (s : State) (f : List Byte) : (s.push f).framePresented = s.framePresented := rfl
@[simp] theorem State.push_txq (s : State) (f : List Byte) : (s.push f).txq = s.txq ++ [f] := rfl
@[simp] theorem State.push_tc (s : State) (f : List Byte) : (s.push f).tc = s.tc := rfl
@[simp] theorem State.push_dir (s : State) (f : List Byte) : (s.push f).dir = s.dir := rfl
@[simp] theorem State.push_rbOff (s : State) (f : List Byte) : (s.push f).rbOff = s.rbOff := rfl
@[simp] theorem State.push_sessionOpen (s : State) (f : List Byte) : (s.push f).sessionOpen = s.sessionOpen := rfl
@[simp] theorem State.push_emptyReads (s : State) (f : List Byte) : (s.push f).emptyReads = s.emptyReads := rfl
@[simp] theorem State.push_forceUpdate (s : State) (f : List Byte) : (s.push f).forceUpdate = s.forceUpdate := rfl
@[simp] theorem State.push_corruptApp (s : State) (f : List Byte) : (s.push f).corruptApp = s.corruptApp := rfl
@[simp] theorem State.push_corruptAux (s : State) (f : List Byte) : (s.push f).corruptAux = s.corruptAux := rfl
@[simp] theorem State.push_loadedApp (s : State) (f : List Byte) : (s.push f).loadedApp = s.loadedApp := rfl
@[simp] theorem State.push_loadedAux (s : State) (f : List Byte) : (s.push f).loadedAux = s.loadedAux := rfl
@[simp] theorem State.push_outcome (s : State) (f : List Byte) : (s.push f).outcome = s.outcome := rfl
@[simp] theorem State.push_bcApp (s : State) (f : List Byte) : (s.push f).bcApp = s.bcApp := rfl
@[simp] theorem State.push_bcAux (s : State) (f : List Byte) : (s.push f).bcAux = s.bcAux := rfl
@[simp] theorem State.push_sbTx (s : State) (f : List Byte) : (s.push f).sbTx = s.sbTx := rfl
@[simp] theorem State.push_sbPm (s : State) (f : List Byte) : (s.push f).sbPm = s.sbPm := rfl
@[simp] theorem State.push_crcAcc (s : State) (f : List Byte) : (s.push f).crcAcc = s.crcAcc := rfl

@[simp] theorem State.push_store (s : State) (f : List Byte) (d : Device) : (s.push f).store d = s.store d := rfl
@[simp] theorem State.push_handle (s : State) (f : List Byte) (h : HandleId) : (s.push f).handle h = s.handle h := rfl
@[simp] theorem State.push_bc (s : State) (f : List Byte) (c : Cat) : (s.push f).bc c = s.bc c := rfl
@[simp] theorem State.push_loaded (s : State) (f : List Byte) (c : Cat) : (s.push f).loaded c = s.loaded c := rfl

/-! ### `State.dropPush` -/

@[simp] theorem State.dropPush_cfg (s : State) : (s.dropPush).cfg = s.cfg := rfl
@[simp] theorem State.dropPush_inbox (s : State) : (s.dropPush).inbox = s.inbox := rfl
@[simp] theorem State.dropPush_flash (s : State) : (s.dropPush).flash = s.flash := rfl
@[simp] theorem State.dropPush_spi (s : State) : (s.dropPush).spi = s.spi := rfl
@[simp] theorem State.dropPush_storageFates (s : State) : (s.dropPush).storageFates = s.storageFates := rfl
@[simp] theorem State.dropPush_txFaults (s : State) : (s.dropPush).txFaults = s.txFaults.tail := rfl
@[simp] theorem State.dropPush_readGlitches (s : State) : (s.dropPush).readGlitches = s.readGlitches := rfl
@[simp] theorem State.dropPush_freeCtr (s : State) : (s.dropPush).freeCtr = s.freeCtr := rfl
@[simp] theorem State.dropPush_fb (s : State) : (s.dropPush).fb = s.fb := rfl
@[simp] theorem State.dropPush_flen (s : State) : (s.dropPush).flen = s.flen := rfl
@[simp] theorem State.dropPush_framePresented (s : State) : (s.dropPush).framePresented = s.framePresented := rfl
@[simp] theorem State.dropPush_txq (s : State) : (s.dropPush).txq = s.txq := rfl
@[simp] theorem State.dropPush_tc (s : State) : (s.dropPush).tc = s.tc := rfl
@[simp] theorem State.dropPush_dir (s : State) : (s.dropPush).dir = s.dir := rfl
@[simp] theorem State.dropPush_rbOff (s : State) : (s.dropPush).rbOff = s.rbOff := rfl
@[simp] theorem State.dropPush_sessionOpen (s : State) : (s.dropPush).sessionOpen = s.sessionOpen := rfl
@[simp] theorem State.dropPush_emptyReads (s : State) : (s.dropPush).emptyReads = s.emptyReads := rfl
@[simp] theorem State.dropPush_forceUpdate (s : State) : (s.dropPush).forceUpdate = s.forceUpdate := rfl
@[simp] theorem State.dropPush_corruptApp (s : State) : (s.dropPush).corruptApp = s.corruptApp := rfl
@[simp] theorem State.dropPush_corruptAux (s : State) : (s.dropPush).corruptAux = s.corruptAux := rfl
@[simp] theorem State.dropPush_loadedApp (s : State) : (s.dropPush).loadedApp = s.loadedApp := rfl
@[simp] theorem State.dropPush_loadedAux (s : State) : (s.dropPush).loadedAux = s.loadedAux := rfl
@[simp] theorem State.dropPush_outcome (s : State) : (s.dropPush).outcome = s.outcome := rfl
@[simp] theorem State.dropPush_bcApp (s : State) : (s.dropPush).bcApp = s.bcApp := rfl
@[simp] theorem State.dropPush_bcAux (s : State) : (s.dropPush).bcAux = s.bcAux := rfl
@[simp] theorem State.dropPush_sbTx (s : State) : (s.dropPush).sbTx = s.sbTx := rfl
@[simp] theorem State.dropPush_sbPm (s : State) : (s.dropPush).sbPm = s.sbPm := rfl
@[simp] theorem State.dropPush_crcAcc (s : State) : (s.dropPush).crcAcc = s.crcAcc := rfl

@[simp] theorem State.dropPush_store (s : State) (d : Device) : (s.dropPush).store d = s.store d := rfl
@[simp] theorem State.dropPush_handle (s : State) (h : HandleId) : (s.dropPush).handle h = s.handle h := rfl
@[simp] theorem State.dropPush_bc (s : State) (c : Cat) : (s.dropPush).bc c = s.bc c := rfl
@[simp] theorem State.dropPush_loaded (s : State) (c : Cat) : (s.dropPush).loaded c = s.loaded c := rfl

/-! ### `finish` -/

@[simp] theorem finish_cfg (s : State) (v : StepOutcome) : (finish v s).cfg = s.cfg := rfl
@[simp] theorem finish_inbox (s : State) (v : StepOutcome) : (finish v s).inbox = s.inbox := rfl
@[simp] theorem finish_flash (s : State) (v : StepOutcome) : (finish v s).flash = s.flash := rfl
@[simp] theorem finish_spi (s : State) (v : StepOutcome) : (finish v s).spi = s.spi := rfl
@[simp] theorem finish_storageFates (s : State) (v : StepOutcome) : (finish v s).storageFates = s.storageFates := rfl
@[simp] theorem finish_txFaults (s : State) (v : StepOutcome) : (finish v s).txFaults = s.txFaults := rfl
@[simp] theorem finish_readGlitches (s : State) (v : StepOutcome) : (finish v s).readGlitches = s.readGlitches := rfl
@[simp] theorem finish_freeCtr (s : State) (v : StepOutcome) : (finish v s).freeCtr = s.freeCtr := rfl
@[simp] theorem finish_fb (s : State) (v : StepOutcome) : (finish v s).fb = s.fb := rfl
@[simp] theorem finish_flen (s : State) (v : StepOutcome) : (finish v s).flen = s.flen := rfl
@[simp] theorem finish_framePresented (s : State) (v : StepOutcome) : (finish v s).framePresented = s.framePresented := rfl
@[simp] theorem finish_txq (s : State) (v : StepOutcome) : (finish v s).txq = s.txq := rfl
@[simp] theorem finish_tc (s : State) (v : StepOutcome) : (finish v s).tc = s.tc := rfl
@[simp] theorem finish_dir (s : State) (v : StepOutcome) : (finish v s).dir = s.dir := rfl
@[simp] theorem finish_rbOff (s : State) (v : StepOutcome) : (finish v s).rbOff = s.rbOff := rfl
@[simp] theorem finish_sessionOpen (s : State) (v : StepOutcome) : (finish v s).sessionOpen = s.sessionOpen := rfl
@[simp] theorem finish_emptyReads (s : State) (v : StepOutcome) : (finish v s).emptyReads = s.emptyReads := rfl
@[simp] theorem finish_forceUpdate (s : State) (v : StepOutcome) : (finish v s).forceUpdate = s.forceUpdate := rfl
@[simp] theorem finish_corruptApp (s : State) (v : StepOutcome) : (finish v s).corruptApp = s.corruptApp := rfl
@[simp] theorem finish_corruptAux (s : State) (v : StepOutcome) : (finish v s).corruptAux = s.corruptAux := rfl
@[simp] theorem finish_loadedApp (s : State) (v : StepOutcome) : (finish v s).loadedApp = s.loadedApp := rfl
@[simp] theorem finish_loadedAux (s : State) (v : StepOutcome) : (finish v s).loadedAux = s.loadedAux := rfl
@[simp] theorem finish_outcome (s : State) (v : StepOutcome) : (finish v s).outcome = v := rfl
@[simp] theorem finish_bcApp (s : State) (v : StepOutcome) : (finish v s).bcApp = s.bcApp := rfl
@[simp] theorem finish_bcAux (s : State) (v : StepOutcome) : (finish v s).bcAux = s.bcAux := rfl
@[simp] theorem finish_sbTx (s : State) (v : StepOutcome) : (finish v s).sbTx = s.sbTx := rfl
@[simp] theorem finish_sbPm (s : State) (v : StepOutcome) : (finish v s).sbPm = s.sbPm := rfl
@[simp] theorem finish_crcAcc (s : State) (v : StepOutcome) : (finish v s).crcAcc = none := rfl

@[simp] theorem finish_store (s : State) (v : StepOutcome) (d : Device) : (finish v s).store d = s.store d := rfl
@[simp] theorem finish_handle (s : State) (v : StepOutcome) (h : HandleId) : (finish v s).handle h = s.handle h := rfl
@[simp] theorem finish_bc (s : State) (v : StepOutcome) (c : Cat) : (finish v s).bc c = s.bc c := rfl
@[simp] theorem finish_loaded (s : State) (v : StepOutcome) (c : Cat) : (finish v s).loaded c = s.loaded c := rfl

/-! ### `reopenSession` -/

@[simp] theorem reopenSession_cfg (s : State) : (reopenSession s).cfg = s.cfg := rfl
@[simp] theorem reopenSession_inbox (s : State) : (reopenSession s).inbox = s.inbox := rfl
@[simp] theorem reopenSession_flash (s : State) : (reopenSession s).flash = s.flash := rfl
@[simp] theorem reopenSession_spi (s : State) : (reopenSession s).spi = s.spi := rfl
@[simp] theorem reopenSession_storageFates (s : State) : (reopenSession s).storageFates = s.storageFates := rfl
@[simp] theorem reopenSession_txFaults (s : State) : (reopenSession s).txFaults = s.txFaults := rfl
@[simp] theorem reopenSession_readGlitches (s : State) : (reopenSession s).readGlitches = s.readGlitches := rfl
@[simp] theorem reopenSession_freeCtr (s : State) : (reopenSession s).freeCtr = s.freeCtr := rfl
@[simp] theorem reopenSession_fb (s : State) : (reopenSession s).fb = s.fb := rfl
@[simp] theorem reopenSession_flen (s : State) : (reopenSession s).flen = s.flen := rfl
@[simp] theorem reopenSession_framePresented (s : State) : (reopenSession s).framePresented = s.framePresented := rfl
@[simp] theorem reopenSession_txq (s : State) : (reopenSession s).txq = s.txq := rfl
@[simp] theorem reopenSession_tc (s : State) : (reopenSession s).tc = TransferContext.blank := rfl
@[simp] theorem reopenSession_dir (s : State) : (reopenSession s).dir = .noDir := rfl
@[simp] theorem reopenSession_rbOff (s : State) : (reopenSession s).rbOff = 0 := rfl
@[simp] theorem reopenSession_sessionOpen (s : State) : (reopenSession s).sessionOpen = true := rfl
@[simp] theorem reopenSession_emptyReads (s : State) : (reopenSession s).emptyReads = false := rfl
@[simp] theorem reopenSession_forceUpdate (s : State) : (reopenSession s).forceUpdate = s.forceUpdate := rfl
@[simp] theorem reopenSession_corruptApp (s : State) : (reopenSession s).corruptApp = s.corruptApp := rfl
@[simp] theorem reopenSession_corruptAux (s : State) : (reopenSession s).corruptAux = s.corruptAux := rfl
@[simp] theorem reopenSession_loadedApp (s : State) : (reopenSession s).loadedApp = s.loadedApp := rfl
@[simp] theorem reopenSession_loadedAux (s : State) : (reopenSession s).loadedAux = s.loadedAux := rfl
@[simp] theorem reopenSession_outcome (s : State) : (reopenSession s).outcome = s.outcome := rfl
@[simp] theorem reopenSession_bcApp (s : State) : (reopenSession s).bcApp = s.bcApp := rfl
@[simp] theorem reopenSession_bcAux (s : State) : (reopenSession s).bcAux = s.bcAux := rfl
@[simp] theorem reopenSession_sbTx (s : State) : (reopenSession s).sbTx = if s.sbTx.bound then s.sbTx.close else s.sbTx := rfl
@[simp] theorem reopenSession_sbPm (s : State) : (reopenSession s).sbPm = s.sbPm := rfl
@[simp] theorem reopenSession_crcAcc (s : State) : (reopenSession s).crcAcc = s.crcAcc := rfl

@[simp] theorem reopenSession_store (s : State) (d : Device) : (reopenSession s).store d = s.store d := rfl
@[simp] theorem reopenSession_bc (s : State) (c : Cat) : (reopenSession s).bc c = s.bc c := rfl
@[simp] theorem reopenSession_loaded (s : State) (c : Cat) : (reopenSession s).loaded c = s.loaded c := rfl

/-! ### `present` -/

@[simp] theorem present_cfg (s : State) (bytes : List Byte) : (present bytes s).cfg = s.cfg := rfl
@[simp] theorem present_inbox (s : State) (bytes : List Byte) : (present bytes s).inbox = s.inbox := rfl
@[simp] theorem present_flash (s : State) (bytes : List Byte) : (present bytes s).flash = s.flash := rfl
@[simp] theorem present_spi (s : State) (bytes : List Byte) : (present bytes s).spi = s.spi := rfl
@[simp] theorem present_storageFates (s : State) (bytes : List Byte) : (present bytes s).storageFates = s.storageFates := rfl
@[simp] theorem present_txFaults (s : State) (bytes : List Byte) : (present bytes s).txFaults = s.txFaults := rfl
@[simp] theorem present_readGlitches (s : State) (bytes : List Byte) : (present bytes s).readGlitches = s.readGlitches := rfl
@[simp] theorem present_freeCtr (s : State) (bytes : List Byte) : (present bytes s).freeCtr = s.freeCtr := rfl
@[simp] theorem present_fb (s : State) (bytes : List Byte) : (present bytes s).fb = bytes.take maxFrame ++ s.fb.drop bytes.length := rfl
@[simp] theorem present_flen (s : State) (bytes : List Byte) : (present bytes s).flen = bytes.length := rfl
@[simp] theorem present_framePresented (s : State) (bytes : List Byte) : (present bytes s).framePresented = true := rfl
@[simp] theorem present_txq (s : State) (bytes : List Byte) : (present bytes s).txq = s.txq := rfl
@[simp] theorem present_tc (s : State) (bytes : List Byte) : (present bytes s).tc = s.tc := rfl
@[simp] theorem present_dir (s : State) (bytes : List Byte) : (present bytes s).dir = s.dir := rfl
@[simp] theorem present_rbOff (s : State) (bytes : List Byte) : (present bytes s).rbOff = s.rbOff := rfl
@[simp] theorem present_sessionOpen (s : State) (bytes : List Byte) : (present bytes s).sessionOpen = s.sessionOpen := rfl
@[simp] theorem present_emptyReads (s : State) (bytes : List Byte) : (present bytes s).emptyReads = s.emptyReads := rfl
@[simp] theorem present_forceUpdate (s : State) (bytes : List Byte) : (present bytes s).forceUpdate = s.forceUpdate := rfl
@[simp] theorem present_corruptApp (s : State) (bytes : List Byte) : (present bytes s).corruptApp = s.corruptApp := rfl
@[simp] theorem present_corruptAux (s : State) (bytes : List Byte) : (present bytes s).corruptAux = s.corruptAux := rfl
@[simp] theorem present_loadedApp (s : State) (bytes : List Byte) : (present bytes s).loadedApp = s.loadedApp := rfl
@[simp] theorem present_loadedAux (s : State) (bytes : List Byte) : (present bytes s).loadedAux = s.loadedAux := rfl
@[simp] theorem present_outcome (s : State) (bytes : List Byte) : (present bytes s).outcome = s.outcome := rfl
@[simp] theorem present_bcApp (s : State) (bytes : List Byte) : (present bytes s).bcApp = s.bcApp := rfl
@[simp] theorem present_bcAux (s : State) (bytes : List Byte) : (present bytes s).bcAux = s.bcAux := rfl
@[simp] theorem present_sbTx (s : State) (bytes : List Byte) : (present bytes s).sbTx = s.sbTx := rfl
@[simp] theorem present_sbPm (s : State) (bytes : List Byte) : (present bytes s).sbPm = s.sbPm := rfl
@[simp] theorem present_crcAcc (s : State) (bytes : List Byte) : (present bytes s).crcAcc = s.crcAcc := rfl

@[simp] theorem present_store (s : State) (bytes : List Byte) (d : Device) : (present bytes s).store d = s.store d := rfl
@[simp] theorem present_handle (s : State) (bytes : List Byte) (h : HandleId) : (present bytes s).handle h = s.handle h := rfl
@[simp] theorem present_bc (s : State) (bytes : List Byte) (c : Cat) : (present bytes s).bc c = s.bc c := rfl
@[simp] theorem present_loaded (s : State) (bytes : List Byte) (c : Cat) : (present bytes s).loaded c = s.loaded c := rfl

/-! ### `State.spendFate` -/

@[simp] theorem State.spendFate_cfg (s : State) : (s.spendFate).cfg = s.cfg := rfl
@[simp] theorem State.spendFate_inbox (s : State) : (s.spendFate).inbox = s.inbox := rfl
@[simp] theorem State.spendFate_flash (s : State) : (s.spendFate).flash = s.flash := rfl
@[simp] theorem State.spendFate_spi (s : State) : (s.spendFate).spi = s.spi := rfl
@[simp] theorem State.spendFate_storageFates (s : State) : (s.spendFate).storageFates = s.storageFates.tail := rfl
@[simp] theorem State.spendFate_txFaults (s : State) : (s.spendFate).txFaults = s.txFaults := rfl
@[simp] theorem State.spendFate_readGlitches (s : State) : (s.spendFate).readGlitches = s.readGlitches := rfl
@[simp] theorem State.spendFate_freeCtr (s : State) : (s.spendFate).freeCtr = s.freeCtr := rfl
@[simp] theorem State.spendFate_fb (s : State) : (s.spendFate).fb = s.fb := rfl
@[simp] theorem State.spendFate_flen (s : State) : (s.spendFate).flen = s.flen := rfl
@[simp] theorem State.spendFate_framePresented (s : State) : (s.spendFate).framePresented = s.framePresented := rfl
@[simp] theorem State.spendFate_txq (s : State) : (s.spendFate).txq = s.txq := rfl
@[simp] theorem State.spendFate_tc (s : State) : (s.spendFate).tc = s.tc := rfl
@[simp] theorem State.spendFate_dir (s : State) : (s.spendFate).dir = s.dir := rfl
@[simp] theorem State.spendFate_rbOff (s : State) : (s.spendFate).rbOff = s.rbOff := rfl
@[simp] theorem State.spendFate_sessionOpen (s : State) : (s.spendFate).sessionOpen = s.sessionOpen := rfl
@[simp] theorem State.spendFate_emptyReads (s : State) : (s.spendFate).emptyReads = s.emptyReads := rfl
@[simp] theorem State.spendFate_forceUpdate (s : State) : (s.spendFate).forceUpdate = s.forceUpdate := rfl
@[simp] theorem State.spendFate_corruptApp (s : State) : (s.spendFate).corruptApp = s.corruptApp := rfl
@[simp] theorem State.spendFate_corruptAux (s : State) : (s.spendFate).corruptAux = s.corruptAux := rfl
@[simp] theorem State.spendFate_loadedApp (s : State) : (s.spendFate).loadedApp = s.loadedApp := rfl
@[simp] theorem State.spendFate_loadedAux (s : State) : (s.spendFate).loadedAux = s.loadedAux := rfl
@[simp] theorem State.spendFate_outcome (s : State) : (s.spendFate).outcome = s.outcome := rfl
@[simp] theorem State.spendFate_bcApp (s : State) : (s.spendFate).bcApp = s.bcApp := rfl
@[simp] theorem State.spendFate_bcAux (s : State) : (s.spendFate).bcAux = s.bcAux := rfl
@[simp] theorem State.spendFate_sbTx (s : State) : (s.spendFate).sbTx = s.sbTx := rfl
@[simp] theorem State.spendFate_sbPm (s : State) : (s.spendFate).sbPm = s.sbPm := rfl
@[simp] theorem State.spendFate_crcAcc (s : State) : (s.spendFate).crcAcc = s.crcAcc := rfl

@[simp] theorem State.spendFate_store (s : State) (d : Device) : (s.spendFate).store d = s.store d := rfl
@[simp] theorem State.spendFate_handle (s : State) (h : HandleId) : (s.spendFate).handle h = s.handle h := rfl
@[simp] theorem State.spendFate_bc (s : State) (c : Cat) : (s.spendFate).bc c = s.bc c := rfl
@[simp] theorem State.spendFate_loaded (s : State) (c : Cat) : (s.spendFate).loaded c = s.loaded c := rfl

/-! ### `State.spendGlitch` -/

@[simp] theorem State.spendGlitch_cfg (s : State) : (s.spendGlitch).cfg = s.cfg := rfl
@[simp] theorem State.spendGlitch_inbox (s : State) : (s.spendGlitch).inbox = s.inbox := rfl
@[simp] theorem State.spendGlitch_flash (s : State) : (s.spendGlitch).flash = s.flash := rfl
@[simp] theorem State.spendGlitch_spi (s : State) : (s.spendGlitch).spi = s.spi := rfl
@[simp] theorem State.spendGlitch_storageFates (s : State) : (s.spendGlitch).storageFates = s.storageFates := rfl
@[simp] theorem State.spendGlitch_txFaults (s : State) : (s.spendGlitch).txFaults = s.txFaults := rfl
@[simp] theorem State.spendGlitch_readGlitches (s : State) : (s.spendGlitch).readGlitches = s.readGlitches.tail := rfl
@[simp] theorem State.spendGlitch_freeCtr (s : State) : (s.spendGlitch).freeCtr = s.freeCtr := rfl
@[simp] theorem State.spendGlitch_fb (s : State) : (s.spendGlitch).fb = s.fb := rfl
@[simp] theorem State.spendGlitch_flen (s : State) : (s.spendGlitch).flen = s.flen := rfl
@[simp] theorem State.spendGlitch_framePresented (s : State) : (s.spendGlitch).framePresented = s.framePresented := rfl
@[simp] theorem State.spendGlitch_txq (s : State) : (s.spendGlitch).txq = s.txq := rfl
@[simp] theorem State.spendGlitch_tc (s : State) : (s.spendGlitch).tc = s.tc := rfl
@[simp] theorem State.spendGlitch_dir (s : State) : (s.spendGlitch).dir = s.dir := rfl
@[simp] theorem State.spendGlitch_rbOff (s : State) : (s.spendGlitch).rbOff = s.rbOff := rfl
@[simp] theorem State.spendGlitch_sessionOpen (s : State) : (s.spendGlitch).sessionOpen = s.sessionOpen := rfl
@[simp] theorem State.spendGlitch_emptyReads (s : State) : (s.spendGlitch).emptyReads = s.emptyReads := rfl
@[simp] theorem State.spendGlitch_forceUpdate (s : State) : (s.spendGlitch).forceUpdate = s.forceUpdate := rfl
@[simp] theorem State.spendGlitch_corruptApp (s : State) : (s.spendGlitch).corruptApp = s.corruptApp := rfl
@[simp] theorem State.spendGlitch_corruptAux (s : State) : (s.spendGlitch).corruptAux = s.corruptAux := rfl
@[simp] theorem State.spendGlitch_loadedApp (s : State) : (s.spendGlitch).loadedApp = s.loadedApp := rfl
@[simp] theorem State.spendGlitch_loadedAux (s : State) : (s.spendGlitch).loadedAux = s.loadedAux := rfl
@[simp] theorem State.spendGlitch_outcome (s : State) : (s.spendGlitch).outcome = s.outcome := rfl
@[simp] theorem State.spendGlitch_bcApp (s : State) : (s.spendGlitch).bcApp = s.bcApp := rfl
@[simp] theorem State.spendGlitch_bcAux (s : State) : (s.spendGlitch).bcAux = s.bcAux := rfl
@[simp] theorem State.spendGlitch_sbTx (s : State) : (s.spendGlitch).sbTx = s.sbTx := rfl
@[simp] theorem State.spendGlitch_sbPm (s : State) : (s.spendGlitch).sbPm = s.sbPm := rfl
@[simp] theorem State.spendGlitch_crcAcc (s : State) : (s.spendGlitch).crcAcc = s.crcAcc := rfl

@[simp] theorem State.spendGlitch_store (s : State) (d : Device) : (s.spendGlitch).store d = s.store d := rfl
@[simp] theorem State.spendGlitch_handle (s : State) (h : HandleId) : (s.spendGlitch).handle h = s.handle h := rfl
@[simp] theorem State.spendGlitch_bc (s : State) (c : Cat) : (s.spendGlitch).bc c = s.bc c := rfl
@[simp] theorem State.spendGlitch_loaded (s : State) (c : Cat) : (s.spendGlitch).loaded c = s.loaded c := rfl

/-! ### `State.draw` -/

@[simp] theorem State.draw_cfg (s : State) (n : Nat) : (s.draw n).cfg = s.cfg := rfl
@[simp] theorem State.draw_inbox (s : State) (n : Nat) : (s.draw n).inbox = s.inbox := rfl
@[simp] theorem State.draw_flash (s : State) (n : Nat) : (s.draw n).flash = s.flash := rfl
@[simp] theorem State.draw_spi (s : State) (n : Nat) : (s.draw n).spi = s.spi := rfl
@[simp] theorem State.draw_storageFates (s : State) (n : Nat) : (s.draw n).storageFates = s.storageFates := rfl
@[simp] theorem State.draw_txFaults (s : State) (n : Nat) : (s.draw n).txFaults = s.txFaults := rfl
@[simp] theorem State.draw_readGlitches (s : State) (n : Nat) : (s.draw n).readGlitches = s.readGlitches := rfl
@[simp] theorem State.draw_freeCtr (s : State) (n : Nat) : (s.draw n).freeCtr = s.freeCtr + n := rfl
@[simp] theorem State.draw_fb (s : State) (n : Nat) : (s.draw n).fb = s.fb := rfl
@[simp] theorem State.draw_flen (s : State) (n : Nat) : (s.draw n).flen = s.flen := rfl
@[simp] theorem State.draw_framePresented (s : State) (n : Nat) : (s.draw n).framePresented = s.framePresented := rfl
@[simp] theorem State.draw_txq (s : State) (n : Nat) : (s.draw n).txq = s.txq := rfl
@[simp] theorem State.draw_tc (s : State) (n : Nat) : (s.draw n).tc = s.tc := rfl
@[simp] theorem State.draw_dir (s : State) (n : Nat) : (s.draw n).dir = s.dir := rfl
@[simp] theorem State.draw_rbOff (s : State) (n : Nat) : (s.draw n).rbOff = s.rbOff := rfl
@[simp] theorem State.draw_sessionOpen (s : State) (n : Nat) : (s.draw n).sessionOpen = s.sessionOpen := rfl
@[simp] theorem State.draw_emptyReads (s : State) (n : Nat) : (s.draw n).emptyReads = s.emptyReads := rfl
@[simp] theorem State.draw_forceUpdate (s : State) (n : Nat) : (s.draw n).forceUpdate = s.forceUpdate := rfl
@[simp] theorem State.draw_corruptApp (s : State) (n : Nat) : (s.draw n).corruptApp = s.corruptApp := rfl
@[simp] theorem State.draw_corruptAux (s : State) (n : Nat) : (s.draw n).corruptAux = s.corruptAux := rfl
@[simp] theorem State.draw_loadedApp (s : State) (n : Nat) : (s.draw n).loadedApp = s.loadedApp := rfl
@[simp] theorem State.draw_loadedAux (s : State) (n : Nat) : (s.draw n).loadedAux = s.loadedAux := rfl
@[simp] theorem State.draw_outcome (s : State) (n : Nat) : (s.draw n).outcome = s.outcome := rfl
@[simp] theorem State.draw_bcApp (s : State) (n : Nat) : (s.draw n).bcApp = s.bcApp := rfl
@[simp] theorem State.draw_bcAux (s : State) (n : Nat) : (s.draw n).bcAux = s.bcAux := rfl
@[simp] theorem State.draw_sbTx (s : State) (n : Nat) : (s.draw n).sbTx = s.sbTx := rfl
@[simp] theorem State.draw_sbPm (s : State) (n : Nat) : (s.draw n).sbPm = s.sbPm := rfl
@[simp] theorem State.draw_crcAcc (s : State) (n : Nat) : (s.draw n).crcAcc = s.crcAcc := rfl

@[simp] theorem State.draw_store (s : State) (n : Nat) (d : Device) : (s.draw n).store d = s.store d := rfl
@[simp] theorem State.draw_handle (s : State) (n : Nat) (h : HandleId) : (s.draw n).handle h = s.handle h := rfl
@[simp] theorem State.draw_bc (s : State) (n : Nat) (c : Cat) : (s.draw n).bc c = s.bc c := rfl
@[simp] theorem State.draw_loaded (s : State) (n : Nat) (c : Cat) : (s.draw n).loaded c = s.loaded c := rfl

/-! ### `State.scramble` -/

@[simp] theorem State.scramble_cfg (s : State) (dev : Device) (a n : Nat) : (s.scramble dev a n).cfg = s.cfg := by cases dev <;> rfl
@[simp] theorem State.scramble_inbox (s : State) (dev : Device) (a n : Nat) : (s.scramble dev a n).inbox = s.inbox := by cases dev <;> rfl
@[simp] theorem State.scramble_storageFates (s : State) (dev : Device) (a n : Nat) : (s.scramble dev a n).storageFates = s.storageFates := by cases dev <;> rfl
@[simp] theorem State.scramble_txFaults (s : State) (dev : Device) (a n : Nat) : (s.scramble dev a n).txFaults = s.txFaults := by cases dev <;> rfl
@[simp] theorem State.scramble_readGlitches (s : State) (dev : Device) (a n : Nat) : (s.scramble dev a n).readGlitches = s.readGlitches := by cases dev <;> rfl
@[simp] theorem State.scramble_freeCtr (s : State) (dev : Device) (a n : Nat) : (s.scramble dev a n).freeCtr = s.freeCtr + n := by cases dev <;> rfl
@[simp] theorem State.scramble_fb (s : State) (dev : Device) (a n : Nat) : (s.scramble dev a n).fb = s.fb := by cases dev <;> rfl
@[simp] theorem State.scramble_flen (s : State) (dev : Device) (a n : Nat) : (s.scramble dev a n).flen = s.flen := by cases dev <;> rfl
@[simp] theorem State.scramble_framePresented (s : State) (dev : Device) (a n : Nat) : (s.scramble dev a n).framePresented = s.framePresented := by cases dev <;> rfl
@[simp] theorem State.scramble_txq (s : State) (dev : Device) (a n : Nat) : (s.scramble dev a n).txq = s.txq := by cases dev <;> rfl
@[simp] theorem State.scramble_tc (s : State) (dev : Device) (a n : Nat) : (s.scramble dev a n).tc = s.tc := by cases dev <;> rfl
@[simp] theorem State.scramble_dir (s : State) (dev : Device) (a n : Nat) : (s.scramble dev a n).dir = s.dir := by cases dev <;> rfl
@[simp] theorem State.scramble_rbOff (s : State) (dev : Device) (a n : Nat) : (s.scramble dev a n).rbOff = s.rbOff := by cases dev <;> rfl
@[simp] theorem State.scramble_sessionOpen (s : State) (dev : Device) (a n : Nat) : (s.scramble dev a n).sessionOpen = s.sessionOpen := by cases dev <;> rfl
@[simp] theorem State.scramble_emptyReads (s : State) (dev : Device) (a n : Nat) : (s.scramble dev a n).emptyReads = s.emptyReads := by cases dev <;> rfl
@[simp] theorem State.scramble_forceUpdate (s : State) (dev : Device) (a n : Nat) : (s.scramble dev a n).forceUpdate = s.forceUpdate := by cases dev <;> rfl
@[simp] theorem State.scramble_corruptApp (s : State) (dev : Device) (a n : Nat) : (s.scramble dev a n).corruptApp = s.corruptApp := by cases dev <;> rfl
@[simp] theorem State.scramble_corruptAux (s : State) (dev : Device) (a n : Nat) : (s.scramble dev a n).corruptAux = s.corruptAux := by cases dev <;> rfl
@[simp] theorem State.scramble_loadedApp (s : State) (dev : Device) (a n : Nat) : (s.scramble dev a n).loadedApp = s.loadedApp := by cases dev <;> rfl
@[simp] theorem State.scramble_loadedAux (s : State) (dev : Device) (a n : Nat) : (s.scramble dev a n).loadedAux = s.loadedAux := by cases dev <;> rfl
@[simp] theorem State.scramble_outcome (s : State) (dev : Device) (a n : Nat) : (s.scramble dev a n).outcome = s.outcome := by cases dev <;> rfl
@[simp] theorem State.scramble_bcApp (s : State) (dev : Device) (a n : Nat) : (s.scramble dev a n).bcApp = s.bcApp := by cases dev <;> rfl
@[simp] theorem State.scramble_bcAux (s : State) (dev : Device) (a n : Nat) : (s.scramble dev a n).bcAux = s.bcAux := by cases dev <;> rfl
@[simp] theorem State.scramble_sbTx (s : State) (dev : Device) (a n : Nat) : (s.scramble dev a n).sbTx = s.sbTx := by cases dev <;> rfl
@[simp] theorem State.scramble_sbPm (s : State) (dev : Device) (a n : Nat) : (s.scramble dev a n).sbPm = s.sbPm := by cases dev <;> rfl
@[simp] theorem State.scramble_crcAcc (s : State) (dev : Device) (a n : Nat) : (s.scramble dev a n).crcAcc = s.crcAcc := by cases dev <;> rfl

@[simp] theorem State.scramble_handle (s : State) (dev : Device) (a n : Nat) (h : HandleId) : (s.scramble dev a n).handle h = s.handle h := by cases dev <;> rfl
@[simp] theorem State.scramble_bc (s : State) (dev : Device) (a n : Nat) (c : Cat) : (s.scramble dev a n).bc c = s.bc c := by cases dev <;> rfl
@[simp] theorem State.scramble_loaded (s : State) (dev : Device) (a n : Nat) (c : Cat) : (s.scramble dev a n).loaded c = s.loaded c := by cases dev <;> rfl

/-! ### `State.program` -/

@[simp] theorem State.program_cfg (s : State) (dev : Device) (a : Nat) (bytes : List Byte) : (s.program dev a bytes).cfg = s.cfg := by cases dev <;> rfl
@[simp] theorem State.program_inbox (s : State) (dev : Device) (a : Nat) (bytes : List Byte) : (s.program dev a bytes).inbox = s.inbox := by cases dev <;> rfl
@[simp] theorem State.program_storageFates (s : State) (dev : Device) (a : Nat) (bytes : List Byte) : (s.program dev a bytes).storageFates = s.storageFates := by cases dev <;> rfl
@[simp] theorem State.program_txFaults (s : State) (dev : Device) (a : Nat) (bytes : List Byte) : (s.program dev a bytes).txFaults = s.txFaults := by cases dev <;> rfl
@[simp] theorem State.program_readGlitches (s : State) (dev : Device) (a : Nat) (bytes : List Byte) : (s.program dev a bytes).readGlitches = s.readGlitches := by cases dev <;> rfl
@[simp] theorem State.program_freeCtr (s : State) (dev : Device) (a : Nat) (bytes : List Byte) : (s.program dev a bytes).freeCtr = s.freeCtr + bytes.length := by cases dev <;> rfl
@[simp] theorem State.program_fb (s : State) (dev : Device) (a : Nat) (bytes : List Byte) : (s.program dev a bytes).fb = s.fb := by cases dev <;> rfl
@[simp] theorem State.program_flen (s : State) (dev : Device) (a : Nat) (bytes : List Byte) : (s.program dev a bytes).flen = s.flen := by cases dev <;> rfl
@[simp] theorem State.program_framePresented (s : State) (dev : Device) (a : Nat) (bytes : List Byte) : (s.program dev a bytes).framePresented = s.framePresented := by cases dev <;> rfl
@[simp] theorem State.program_txq (s : State) (dev : Device) (a : Nat) (bytes : List Byte) : (s.program dev a bytes).txq = s.txq := by cases dev <;> rfl
@[simp] theorem State.program_tc (s : State) (dev : Device) (a : Nat) (bytes : List Byte) : (s.program dev a bytes).tc = s.tc := by cases dev <;> rfl
@[simp] theorem State.program_dir (s : State) (dev : Device) (a : Nat) (bytes : List Byte) : (s.program dev a bytes).dir = s.dir := by cases dev <;> rfl
@[simp] theorem State.program_rbOff (s : State) (dev : Device) (a : Nat) (bytes : List Byte) : (s.program dev a bytes).rbOff = s.rbOff := by cases dev <;> rfl
@[simp] theorem State.program_sessionOpen (s : State) (dev : Device) (a : Nat) (bytes : List Byte) : (s.program dev a bytes).sessionOpen = s.sessionOpen := by cases dev <;> rfl
@[simp] theorem State.program_emptyReads (s : State) (dev : Device) (a : Nat) (bytes : List Byte) : (s.program dev a bytes).emptyReads = s.emptyReads := by cases dev <;> rfl
@[simp] theorem State.program_forceUpdate (s : State) (dev : Device) (a : Nat) (bytes : List Byte) : (s.program dev a bytes).forceUpdate = s.forceUpdate := by cases dev <;> rfl
@[simp] theorem State.program_corruptApp (s : State) (dev : Device) (a : Nat) (bytes : List Byte) : (s.program dev a bytes).corruptApp = s.corruptApp := by cases dev <;> rfl
@[simp] theorem State.program_corruptAux (s : State) (dev : Device) (a : Nat) (bytes : List Byte) : (s.program dev a bytes).corruptAux = s.corruptAux := by cases dev <;> rfl
@[simp] theorem State.program_loadedApp (s : State) (dev : Device) (a : Nat) (bytes : List Byte) : (s.program dev a bytes).loadedApp = s.loadedApp := by cases dev <;> rfl
@[simp] theorem State.program_loadedAux (s : State) (dev : Device) (a : Nat) (bytes : List Byte) : (s.program dev a bytes).loadedAux = s.loadedAux := by cases dev <;> rfl
@[simp] theorem State.program_outcome (s : State) (dev : Device) (a : Nat) (bytes : List Byte) : (s.program dev a bytes).outcome = s.outcome := by cases dev <;> rfl
@[simp] theorem State.program_bcApp (s : State) (dev : Device) (a : Nat) (bytes : List Byte) : (s.program dev a bytes).bcApp = s.bcApp := by cases dev <;> rfl
@[simp] theorem State.program_bcAux (s : State) (dev : Device) (a : Nat) (bytes : List Byte) : (s.program dev a bytes).bcAux = s.bcAux := by cases dev <;> rfl
@[simp] theorem State.program_sbTx (s : State) (dev : Device) (a : Nat) (bytes : List Byte) : (s.program dev a bytes).sbTx = s.sbTx := by cases dev <;> rfl
@[simp] theorem State.program_sbPm (s : State) (dev : Device) (a : Nat) (bytes : List Byte) : (s.program dev a bytes).sbPm = s.sbPm := by cases dev <;> rfl
@[simp] theorem State.program_crcAcc (s : State) (dev : Device) (a : Nat) (bytes : List Byte) : (s.program dev a bytes).crcAcc = s.crcAcc := by cases dev <;> rfl

@[simp] theorem State.program_handle (s : State) (dev : Device) (a : Nat) (bytes : List Byte) (h : HandleId) : (s.program dev a bytes).handle h = s.handle h := by cases dev <;> rfl
@[simp] theorem State.program_bc (s : State) (dev : Device) (a : Nat) (bytes : List Byte) (c : Cat) : (s.program dev a bytes).bc c = s.bc c := by cases dev <;> rfl
@[simp] theorem State.program_loaded (s : State) (dev : Device) (a : Nat) (bytes : List Byte) (c : Cat) : (s.program dev a bytes).loaded c = s.loaded c := by cases dev <;> rfl

/-! ### `State.eraseArea` -/

@[simp] theorem State.eraseArea_cfg (s : State) (a : Area) : (s.eraseArea a).cfg = s.cfg := by
  unfold State.eraseArea
  cases a.dev <;> rfl
@[simp] theorem State.eraseArea_inbox (s : State) (a : Area) : (s.eraseArea a).inbox = s.inbox := by
  unfold State.eraseArea
  cases a.dev <;> rfl
@[simp] theorem State.eraseArea_storageFates (s : State) (a : Area) : (s.eraseArea a).storageFates = s.storageFates := by
  unfold State.eraseArea
  cases a.dev <;> rfl
@[simp] theorem State.eraseArea_txFaults (s : State) (a : Area) : (s.eraseArea a).txFaults = s.txFaults := by
  unfold State.eraseArea
  cases a.dev <;> rfl
@[simp] theorem State.eraseArea_readGlitches (s : State) (a : Area) : (s.eraseArea a).readGlitches = s.readGlitches := by
  unfold State.eraseArea
  cases a.dev <;> rfl
@[simp] theorem State.eraseArea_freeCtr (s : State) (a : Area) : (s.eraseArea a).freeCtr = s.freeCtr := by
  unfold State.eraseArea
  cases a.dev <;> rfl
@[simp] theorem State.eraseArea_fb (s : State) (a : Area) : (s.eraseArea a).fb = s.fb := by
  unfold State.eraseArea
  cases a.dev <;> rfl
@[simp] theorem State.eraseArea_flen (s : State) (a : Area) : (s.eraseArea a).flen = s.flen := by
  unfold State.eraseArea
  cases a.dev <;> rfl
@[simp] theorem State.eraseArea_framePresented (s : State) (a : Area) : (s.eraseArea a).framePresented = s.framePresented := by
  unfold State.eraseArea
  cases a.dev <;> rfl
@[simp] theorem State.eraseArea_txq (s : State) (a : Area) : (s.eraseArea a).txq = s.txq := by
  unfold State.eraseArea
  cases a.dev <;> rfl
@[simp] theorem State.eraseArea_tc (s : State) (a : Area) : (s.eraseArea a).tc = s.tc := by
  unfold State.eraseArea
  cases a.dev <;> rfl
@[simp] theorem State.eraseArea_dir (s : State) (a : Area) : (s.eraseArea a).dir = s.dir := by
  unfold State.eraseArea
  cases a.dev <;> rfl
@[simp] theorem State.eraseArea_rbOff (s : State) (a : Area) : (s.eraseArea a).rbOff = s.rbOff := by
  unfold State.eraseArea
  cases a.dev <;> rfl
@[simp] theorem State.eraseArea_sessionOpen (s : State) (a : Area) : (s.eraseArea a).sessionOpen = s.sessionOpen := by
  unfold State.eraseArea
  cases a.dev <;> rfl
@[simp] theorem State.eraseArea_emptyReads (s : State) (a : Area) : (s.eraseArea a).emptyReads = s.emptyReads := by
  unfold State.eraseArea
  cases a.dev <;> rfl
@[simp] theorem State.eraseArea_forceUpdate (s : State) (a : Area) : (s.eraseArea a).forceUpdate = s.forceUpdate := by
  unfold State.eraseArea
  cases a.dev <;> rfl
@[simp] theorem State.eraseArea_corruptApp (s : State) (a : Area) : (s.eraseArea a).corruptApp = s.corruptApp := by
  unfold State.eraseArea
  cases a.dev <;> rfl
@[simp] theorem State.eraseArea_corruptAux (s : State) (a : Area) : (s.eraseArea a).corruptAux = s.corruptAux := by
  unfold State.eraseArea
  cases a.dev <;> rfl
@[simp] theorem State.eraseArea_loadedApp (s : State) (a : Area) : (s.eraseArea a).loadedApp = s.loadedApp := by
  unfold State.eraseArea
  cases a.dev <;> rfl
@[simp] theorem State.eraseArea_loadedAux (s : State) (a : Area) : (s.eraseArea a).loadedAux = s.loadedAux := by
  unfold State.eraseArea
  cases a.dev <;> rfl
@[simp] theorem State.eraseArea_outcome (s : State) (a : Area) : (s.eraseArea a).outcome = s.outcome := by
  unfold State.eraseArea
  cases a.dev <;> rfl
@[simp] theorem State.eraseArea_bcApp (s : State) (a : Area) : (s.eraseArea a).bcApp = s.bcApp := by
  unfold State.eraseArea
  cases a.dev <;> rfl
@[simp] theorem State.eraseArea_bcAux (s : State) (a : Area) : (s.eraseArea a).bcAux = s.bcAux := by
  unfold State.eraseArea
  cases a.dev <;> rfl
@[simp] theorem State.eraseArea_sbTx (s : State) (a : Area) : (s.eraseArea a).sbTx = s.sbTx := by
  unfold State.eraseArea
  cases a.dev <;> rfl
@[simp] theorem State.eraseArea_sbPm (s : State) (a : Area) : (s.eraseArea a).sbPm = s.sbPm := by
  unfold State.eraseArea
  cases a.dev <;> rfl
@[simp] theorem State.eraseArea_crcAcc (s : State) (a : Area) : (s.eraseArea a).crcAcc = s.crcAcc := by
  unfold State.eraseArea
  cases a.dev <;> rfl

@[simp] theorem State.eraseArea_handle (s : State) (a : Area) (h : HandleId) : (s.eraseArea a).handle h = s.handle h := by
  unfold State.eraseArea
  cases a.dev <;> rfl
@[simp] theorem State.eraseArea_bc (s : State) (a : Area) (c : Cat) : (s.eraseArea a).bc c = s.bc c := by
  unfold State.eraseArea
  cases a.dev <;> rfl
@[simp] theorem State.eraseArea_loaded (s : State) (a : Area) (c : Cat) : (s.eraseArea a).loaded c = s.loaded c := by
  unfold State.eraseArea
  cases a.dev <;> rfl

/-! ### `State.powerUp` -/

@[simp] theorem State.powerUp_cfg (s : State) : (s.powerUp).cfg = s.cfg := rfl
@[simp] theorem State.powerUp_inbox (s : State) : (s.powerUp).inbox = s.inbox := rfl
@[simp] theorem State.powerUp_flash (s : State) : (s.powerUp).flash = s.flash := rfl
@[simp] theorem State.powerUp_spi (s : State) : (s.powerUp).spi = s.spi := rfl
@[simp] theorem State.powerUp_storageFates (s : State) : (s.powerUp).storageFates = s.storageFates := rfl
@[simp] theorem State.powerUp_txFaults (s : State) : (s.powerUp).txFaults = s.txFaults := rfl
@[simp] theorem State.powerUp_readGlitches (s : State) : (s.powerUp).readGlitches = s.readGlitches := rfl
@[simp] theorem State.powerUp_freeCtr (s : State) : (s.powerUp).freeCtr = s.freeCtr := rfl
@[simp] theorem State.powerUp_fb (s : State) : (s.powerUp).fb = List.replicate maxFrame 0#8 := by
  simp only [State.powerUp, State.resetWith]
@[simp] theorem State.powerUp_flen (s : State) : (s.powerUp).flen = 0 := rfl
@[simp] theorem State.powerUp_framePresented (s : State) : (s.powerUp).framePresented = false := rfl
@[simp] theorem State.powerUp_txq (s : State) : (s.powerUp).txq = [] := rfl
@[simp] theorem State.powerUp_tc (s : State) : (s.powerUp).tc = TransferContext.blank := rfl
@[simp] theorem State.powerUp_dir (s : State) : (s.powerUp).dir = .noDir := rfl
@[simp] theorem State.powerUp_rbOff (s : State) : (s.powerUp).rbOff = 0 := rfl
@[simp] theorem State.powerUp_sessionOpen (s : State) : (s.powerUp).sessionOpen = false := rfl
@[simp] theorem State.powerUp_emptyReads (s : State) : (s.powerUp).emptyReads = false := rfl
@[simp] theorem State.powerUp_forceUpdate (s : State) : (s.powerUp).forceUpdate = false := rfl
@[simp] theorem State.powerUp_corruptApp (s : State) : (s.powerUp).corruptApp = false := rfl
@[simp] theorem State.powerUp_corruptAux (s : State) : (s.powerUp).corruptAux = false := rfl
@[simp] theorem State.powerUp_loadedApp (s : State) : (s.powerUp).loadedApp = false := rfl
@[simp] theorem State.powerUp_loadedAux (s : State) : (s.powerUp).loadedAux = false := rfl
@[simp] theorem State.powerUp_outcome (s : State) : (s.powerUp).outcome = .proceed := rfl
@[simp] theorem State.powerUp_bcApp (s : State) : (s.powerUp).bcApp = BootContext.zero := rfl
@[simp] theorem State.powerUp_bcAux (s : State) : (s.powerUp).bcAux = BootContext.zero := rfl
@[simp] theorem State.powerUp_sbTx (s : State) : (s.powerUp).sbTx = Handle.closed := rfl
@[simp] theorem State.powerUp_sbPm (s : State) : (s.powerUp).sbPm = Handle.closed := rfl
@[simp] theorem State.powerUp_crcAcc (s : State) : (s.powerUp).crcAcc = none := rfl

@[simp] theorem State.powerUp_store (s : State) (d : Device) : s.powerUp.store d = s.store d := by
  cases d <;> rfl
@[simp] theorem State.powerUp_loaded (s : State) (c : Cat) : s.powerUp.loaded c = false := by cases c <;> rfl

/-! ### A block as it is built -/

/-- A block is built exactly from a record that satisfies 00_scope.md R10, and then holds the reset values. -/
theorem State.build?_eq_some {cfg : Config} {flash spi : Memory} {s : State} :
    State.build? cfg flash spi = some s ↔ cfg.buildable ∧ s = State.resetWith cfg flash spi := by
  by_cases h : cfg.buildable
  · rw [State.build?, dif_pos h]
    exact ⟨fun e => ⟨h, (Option.some.inj e).symm⟩, fun e => by rw [e.2]; rfl⟩
  · rw [State.build?, dif_neg h]
    exact ⟨(by cases ·), fun e => absurd e.1 h⟩

/-- The built block, given that its record was checked. -/
@[simp] theorem State.build_eq (cfg : Config) (h : cfg.buildable) (flash spi : Memory) :
    State.build cfg h flash spi = State.resetWith cfg flash spi := rfl

/-! ### Views through the accessors -/

@[simp] theorem State.setDesc_desc (s : State) (c : Cat) (b : Bank) (d : Descriptor) :
    (s.setDesc c b d).desc c b = d := by cases c <;> cases b <;> rfl
@[simp] theorem BootContext.setDesc_desc (x : BootContext) (b : Bank) (d : Descriptor) :
    (x.setDesc b d).desc b = d := by cases b <;> rfl
@[simp] theorem BootContext.setDesc_active (x : BootContext) (b : Bank) (d : Descriptor) :
    (x.setDesc b d).active = x.active := by cases b <;> rfl
@[simp] theorem Handle.close_bound (x : Handle) : x.close.bound = false := rfl
@[simp] theorem Handle.close_cur (x : Handle) : x.close.cur = 0 := rfl
@[simp] theorem Handle.close_area (x : Handle) : x.close.area = x.area := rfl
@[simp] theorem State.handle_tx (s : State) : s.handle .tx = s.sbTx := rfl
@[simp] theorem State.handle_pm (s : State) : s.handle .pm = s.sbPm := rfl
@[simp] theorem Target.make_cat (c : Cat) (b : Bank) : (Target.make c b).cat = c := by
  cases c <;> cases b <;> rfl
@[simp] theorem Target.make_bank (c : Cat) (b : Bank) : (Target.make c b).bank = b := by
  cases c <;> cases b <;> rfl
@[simp] theorem Target.make_cat_bank (t : Target) : Target.make t.cat t.bank = t := by cases t <;> rfl

end Sys2Proof.Machine
end

