-- ==== Sys2Proof/Laws/Storage.lean ====
section
/-! SUPPORT. What each shared operation does, once: the storage calls of spec/20_memory.md and the emission of
a frame, each as one equation on the state it runs in. -/

namespace Sys2Proof.Machine

@[simp] theorem run_takeFate (s : State) : takeFate s =
    if s.fate = .lostBefore then .error .powerLost s.spendFate else .ok s.fate s.spendFate := by
  simp only [takeFate, run_bind, run_get, run_set]
  split <;> simp_all

@[simp] theorem State.spendFate_glitch (s : State) : s.spendFate.glitch = s.glitch := rfl

@[simp] theorem run_endCall {α : Type} (f : CallFate) (ok fail : α) (s : State) : endCall f ok fail s =
    match f with
    | .completes => .ok ok s
    | .fails => .ok fail s
    | .lostBefore => .error .powerLost s
    | .lostDuring => .error .powerLost s := by cases f <;> rfl

@[simp] theorem run_needArea (a : Area) (s : State) :
    needArea a s = if a.fits = true then .ok () s else .error (.fault .noSuchAddress) s := by
  unfold needArea
  split <;> rfl

/-- Every result of `MemInit` (R63, R61, R68). -/
theorem run_memInit (h : HandleId) (s : State) : memInit h s =
    match s.fate with
    | .completes => .ok ((s.handle h).bound && (s.handle h).area.fits) s.spendFate
    | .fails => .ok false s.spendFate
    | .lostBefore => .error .powerLost s.spendFate
    | .lostDuring => .error .powerLost s.spendFate := by
  unfold memInit
  rw [run_bind, run_takeFate]
  cases hf : s.fate <;> simp [run_bind]

/-- Every result of `MemFlush` (R67, R68). -/
theorem run_memFlush (h : HandleId) (s : State) : memFlush h s =
    match s.fate with
    | .completes => .ok (if (s.handle h).bound then some (s.handle h).cur else none) s.spendFate
    | .fails => .ok none s.spendFate
    | .lostBefore => .error .powerLost s.spendFate
    | .lostDuring => .error .powerLost s.spendFate := by
  unfold memFlush
  rw [run_bind, run_takeFate]
  cases hf : s.fate <;> simp [run_bind]
  rfl

/-- The bytes a `MemRead` of `n` bytes at `off` returns (R64; 93 U7). -/
def State.readThrough (s : State) (h : HandleId) (off n : Nat) : List Byte :=
  glitched (Memory.readBytes (s.store (s.handle h).area.dev) ((s.handle h).area.start.toNat + off) n) s.glitch

/-- A read through a handle stays inside its area (R64). -/
def Handle.reads (x : Handle) (off n : Nat) : Prop := x.bound = true ∧ off + n ≤ x.area.size.toNat

/-- Every result of `MemRead` (R64, R68). -/
theorem run_memRead (h : HandleId) (off n : Nat) (s : State) : memRead h off n s =
    if s.fate = .lostBefore then .error .powerLost s.spendFate
    else if (s.handle h).bound = true ∧ off + n ≤ (s.handle h).area.size.toNat then
      if (s.handle h).area.fits = true then
        match s.fate with
        | .completes => .ok (some (s.readThrough h off n)) s.spendFate.spendGlitch
        | .fails => .ok none s.spendFate.spendGlitch
        | _ => .error .powerLost s.spendFate.spendGlitch
      else .error (.fault .noSuchAddress) s.spendFate.spendGlitch
    else match s.fate with
      | .completes => .ok none s.spendFate.spendGlitch
      | .fails => .ok none s.spendFate.spendGlitch
      | _ => .error .powerLost s.spendFate.spendGlitch := by
  unfold memRead
  rw [run_bind, run_takeFate]
  by_cases h1 : s.fate = .lostBefore
  · simp [h1]
  · rw [if_neg h1, if_neg h1]
    simp only [run_bind, run_get, run_set]
    by_cases h2 : (s.handle h).bound = true ∧ off + n ≤ (s.handle h).area.size.toNat
    · rw [if_pos h2, if_neg (by simpa using h2)]
      simp only [run_bind, run_needArea, State.spendFate_handle]
      by_cases h3 : (s.handle h).area.fits = true
      · simp only [h3, if_true]
        cases hf : s.fate <;> simp_all [State.readThrough]
      · simp [h3]
    · rw [if_neg h2, if_pos (by simpa [Classical.or_iff_not_imp_left] using h2)]
      cases hf : s.fate <;> simp_all

/-- Every result of `MemWrite` (R65, R68, R75; 70_reset_and_hazards.md R345). -/
theorem run_memWrite (h : HandleId) (bytes : List Byte) (s : State) : memWrite h bytes s =
    if s.fate = .lostBefore then .error .powerLost s.spendFate
    else if (s.handle h).bound = true ∧ (s.handle h).cur.toNat + bytes.length ≤ (s.handle h).area.size.toNat then
      if (s.handle h).area.fits = true then
        match s.fate with
        | .completes => .ok true
            ((s.spendFate.program (s.handle h).area.dev (s.handle h).cursor bytes).setHandle h
              { s.handle h with cur := (s.handle h).cur + BitVec.ofNat 32 bytes.length })
        | .fails => .ok false (s.spendFate.scramble (s.handle h).area.dev (s.handle h).cursor bytes.length)
        | _ => .error .powerLost (s.spendFate.scramble (s.handle h).area.dev (s.handle h).cursor bytes.length)
      else .error (.fault .noSuchAddress) s.spendFate
    else match s.fate with
      | .completes => .ok false s.spendFate
      | .fails => .ok false s.spendFate
      | _ => .error .powerLost s.spendFate := by
  unfold memWrite
  rw [run_bind, run_takeFate]
  by_cases h1 : s.fate = .lostBefore
  · simp [h1]
  · rw [if_neg h1, if_neg h1]
    simp only [run_bind, run_get]
    by_cases h2 : (s.handle h).bound = true ∧
        (s.handle h).cur.toNat + bytes.length ≤ (s.handle h).area.size.toNat
    · rw [if_pos h2, if_neg (by simpa using h2)]
      simp only [run_bind, run_needArea, State.spendFate_handle]
      by_cases h3 : (s.handle h).area.fits = true
      · simp only [h3, if_true]
        cases hf : s.fate <;> simp_all [run_bind]
      · simp [h3]
    · rw [if_neg h2, if_pos (by simpa [Classical.or_iff_not_imp_left] using h2)]
      cases hf : s.fate <;> simp_all

/-- Every result of `MemErase` (R66, R68; 70_reset_and_hazards.md R345). -/
theorem run_memErase (h : HandleId) (s : State) : memErase h s =
    if s.fate = .lostBefore then .error .powerLost s.spendFate
    else if (s.handle h).bound = true then
      if (s.handle h).area.fits = true then
        match s.fate with
        | .completes => .ok true
            ((s.spendFate.eraseArea (s.handle h).area).setHandle h { s.handle h with cur := 0 })
        | .fails => .ok false (s.spendFate.scramble (s.handle h).area.dev (s.handle h).area.start.toNat
            (s.handle h).area.size.toNat)
        | _ => .error .powerLost (s.spendFate.scramble (s.handle h).area.dev (s.handle h).area.start.toNat
            (s.handle h).area.size.toNat)
      else .error (.fault .noSuchAddress) s.spendFate
    else match s.fate with
      | .completes => .ok false s.spendFate
      | .fails => .ok false s.spendFate
      | _ => .error .powerLost s.spendFate := by
  unfold memErase
  rw [run_bind, run_takeFate]
  by_cases h1 : s.fate = .lostBefore
  · simp [h1]
  · rw [if_neg h1, if_neg h1]
    simp only [run_bind, run_get]
    by_cases h2 : (s.handle h).bound = true
    · rw [if_pos h2, if_neg (by simpa using h2)]
      simp only [run_bind, run_needArea, State.spendFate_handle]
      by_cases h3 : (s.handle h).area.fits = true
      · simp only [h3, if_true]
        cases hf : s.fate <;> simp_all [run_bind]
      · simp [h3]
    · rw [if_neg h2, if_pos (by simpa [Classical.or_iff_not_imp_left] using h2)]
      cases hf : s.fate <;> simp_all

/-- `region_crc` is one `MemRead` and the CRC of its bytes (40_crc_engine.md R150). -/
theorem run_regionCrc (h : HandleId) (n : Word) (s : State) : regionCrc h n s =
    match memRead h 0 n.toNat s with
    | .ok bytes t => .ok (bytes.map (crc32 s.cfg)) t
    | .error e t => .error e t := by
  unfold regionCrc
  simp only [run_bind, run_get]
  cases memRead h 0 n.toNat s <;> simp

/-- Every result of an emission (43_session_driver.md R234). -/
@[simp] theorem run_emit (f : List Byte) (s : State) : emit f s =
    if s.nextTxFails = true then .error (.raised (.transport .write)) s.dropPush else .ok () (s.push f) := by
  unfold emit
  simp only [run_bind, run_get]
  by_cases h : s.nextTxFails = true <;> simp [h, run_bind]

/-! ### What the three changes of a device leave -/

theorem State.program_store (s : State) (dev : Device) (a : Nat) (bytes : List Byte) :
    (s.program dev a bytes).store dev = Memory.writeBytes (s.store dev) a
      (Memory.programmed (s.store dev) s.cfg.erasedByte a s.freeCtr bytes) := by
  cases dev <;> rfl

theorem State.scramble_store (s : State) (dev : Device) (a n : Nat) :
    (s.scramble dev a n).store dev = Memory.writeBytes (s.store dev) a (freeBytes s.freeCtr n) := by
  cases dev <;> rfl

theorem State.eraseArea_store (s : State) (a : Area) :
    (s.eraseArea a).store a.dev = Memory.fill (s.store a.dev) a.start.toNat a.size.toNat s.cfg.erasedByte := by
  unfold State.eraseArea
  simp

/-! ### Where storage answers -/

theorem State.storageAnswers.fate {s : State} (h : s.storageAnswers) : s.fate = .completes := by
  unfold State.fate
  cases hs : s.storageFates with
  | nil => rfl
  | cons f fs => exact h.1 f (by simp [hs])

theorem State.storageAnswers.glitch {s : State} (h : s.storageAnswers) : s.glitch = [] := by
  unfold State.glitch
  cases hs : s.readGlitches with
  | nil => rfl
  | cons f fs => exact h.2 f (by simp [hs])

theorem State.storageAnswers.congr {s t : State} (h : s.storageAnswers)
    (hf : ∀ f ∈ t.storageFates, f ∈ s.storageFates) (hg : ∀ m ∈ t.readGlitches, m ∈ s.readGlitches) :
    t.storageAnswers := ⟨fun f hf' => h.1 f (hf f hf'), fun m hm => h.2 m (hg m hm)⟩

theorem State.storageAnswers.spendFate {s : State} (h : s.storageAnswers) : s.spendFate.storageAnswers :=
  h.congr (fun _ hf => List.mem_of_mem_tail hf) fun _ hm => hm

theorem State.storageAnswers.spendGlitch {s : State} (h : s.storageAnswers) : s.spendGlitch.storageAnswers :=
  h.congr (fun _ hf => hf) fun _ hm => List.mem_of_mem_tail hm

@[simp] theorem glitched_nil (bytes : List Byte) : glitched bytes [] = bytes := by cases bytes <;> rfl

/-! ### The storage calls that complete on a bound area that exists -/

theorem memInit_ok {h : HandleId} {s : State} (hf : s.fate = .completes) (hb : (s.handle h).bound = true)
    (ha : (s.handle h).area.fits = true) : memInit h s = .ok true s.spendFate := by
  rw [run_memInit, hf]
  simp [hb, ha]

theorem memFlush_ok {h : HandleId} {s : State} (hf : s.fate = .completes) (hb : (s.handle h).bound = true) :
    memFlush h s = .ok (some (s.handle h).cur) s.spendFate := by
  rw [run_memFlush, hf]
  simp [hb]

theorem memRead_ok {h : HandleId} {off n : Nat} {s : State} (hf : s.fate = .completes) (hg : s.glitch = [])
    (hb : (s.handle h).bound = true) (ha : (s.handle h).area.fits = true)
    (hn : off + n ≤ (s.handle h).area.size.toNat) :
    memRead h off n s =
      .ok (some (Memory.readBytes (s.store (s.handle h).area.dev) ((s.handle h).area.start.toNat + off) n))
        s.spendFate.spendGlitch := by
  rw [run_memRead, hf, if_neg (by simp), if_pos ⟨hb, hn⟩, if_pos ha]
  simp [State.readThrough, hg]

theorem memWrite_ok {h : HandleId} {bytes : List Byte} {s : State} (hf : s.fate = .completes)
    (hb : (s.handle h).bound = true) (ha : (s.handle h).area.fits = true)
    (hn : (s.handle h).cur.toNat + bytes.length ≤ (s.handle h).area.size.toNat) :
    memWrite h bytes s = .ok true
      ((s.spendFate.program (s.handle h).area.dev (s.handle h).cursor bytes).setHandle h
        { s.handle h with cur := (s.handle h).cur + BitVec.ofNat 32 bytes.length }) := by
  rw [run_memWrite, hf, if_neg (by simp), if_pos ⟨hb, hn⟩, if_pos ha]

theorem memErase_ok {h : HandleId} {s : State} (hf : s.fate = .completes) (hb : (s.handle h).bound = true)
    (ha : (s.handle h).area.fits = true) :
    memErase h s =
      .ok true ((s.spendFate.eraseArea (s.handle h).area).setHandle h { s.handle h with cur := 0 }) := by
  rw [run_memErase, hf, if_neg (by simp), if_pos hb, if_pos ha]

end Sys2Proof.Machine
end

