-- ==== Sys2Proof/Laws/Steps.lean ====
section
/-! SUPPORT. What the wrappers of a step and the shared parts of the rules do, once: a frame's step, an
operation's step, the direction gate, the tests of a request, and the reading and writing of a context copy. -/

namespace Sys2Proof.Machine

/-! ### A frame's step (43_session_driver.md R230) -/

theorem frameStep_closed {rule : Act StepOutcome} {s : State} (h : s.sessionOpen = false) :
    frameStep rule s = .next (s.rejected (.state .noSession)) := by
  simp [frameStep, h, finish, State.rejected, State.clearEmptyReads]

theorem frameStep_ok {rule : Act StepOutcome} {s t : State} {v : StepOutcome} (h : s.sessionOpen = true)
    (hr : rule s.clearEmptyReads = .ok v t) : frameStep rule s = .next (finish v t) := by
  simp [frameStep, h, hr, settleFrame]

theorem frameStep_error {rule : Act StepOutcome} {s t : State} {e : Err} (h : s.sessionOpen = true)
    (hr : rule s.clearEmptyReads = .error (.raised e) t) :
    frameStep rule s = .next (finish (.error e) (errorReply e (takeError e t))) := by
  simp [frameStep, h, hr, settleFrame]

/-- Everything a frame's step that goes on can have been. -/
theorem frameStep_cases {rule : Act StepOutcome} {s t : State} (h : frameStep rule s = .next t) :
    (s.sessionOpen = false ∧ t = s.rejected (.state .noSession)) ∨
    (s.sessionOpen = true ∧
      ((∃ v u, rule s.clearEmptyReads = .ok v u ∧ t = finish v u) ∨
       (∃ e u, rule s.clearEmptyReads = .error (.raised e) u ∧
         t = finish (.error e) (errorReply e (takeError e u))) ∨
       (∃ u, rule s.clearEmptyReads = .error .powerLost u ∧ t = u.powerUp))) := by
  by_cases ho : s.sessionOpen = false
  · rw [frameStep_closed ho] at h
    exact .inl ⟨ho, by injection h with h; exact h.symm⟩
  · right
    refine ⟨by simpa using ho, ?_⟩
    unfold frameStep at h
    rw [if_neg ho] at h
    unfold settleFrame at h
    split at h
    · exact .inl ⟨_, _, ‹_›, by injection h with h; exact h.symm⟩
    · exact .inr (.inl ⟨_, _, ‹_›, by injection h with h; exact h.symm⟩)
    · exact .inr (.inr ⟨_, ‹_›, by injection h with h; exact h.symm⟩)
    · cases h

/-- Everything an operation's step that goes on can have been. -/
theorem operationStep_cases {rule : Act StepOutcome} {s t : State} (h : operationStep rule s = .next t) :
    (∃ v u, rule s = .ok v u ∧ t = finish v u) ∨
    (∃ e u, rule s = .error (.raised e) u ∧ t = finish (.error e) u) ∨
    (∃ u, rule s = .error .powerLost u ∧ t = u.powerUp) := by
  unfold operationStep settleOperation at h
  split at h
  · exact .inl ⟨_, _, ‹_›, by injection h with h; exact h.symm⟩
  · exact .inr (.inl ⟨_, _, ‹_›, by injection h with h; exact h.symm⟩)
  · exact .inr (.inr ⟨_, ‹_›, by injection h with h; exact h.symm⟩)
  · cases h

theorem operationStep_ok {rule : Act StepOutcome} {s t : State} {v : StepOutcome} (hr : rule s = .ok v t) :
    operationStep rule s = .next (finish v t) := by simp [operationStep, settleOperation, hr]

theorem operationStep_error {rule : Act StepOutcome} {s t : State} {e : Err}
    (hr : rule s = .error (.raised e) t) : operationStep rule s = .next (finish (.error e) t) := by
  simp [operationStep, settleOperation, hr]

/-! ### The tests in front of a rule -/

/-- Every result of the direction gate (41_frame_parser.md R164). -/
theorem run_gate (k : Kind) (s : State) : gate k s =
    if s.dir = .read ∧ Machine.Kind.gated k = true then .error (.raised (.state .wrongDirection)) s
    else .ok () s := by
  unfold gate
  simp only [run_bind, run_get, run_require]
  by_cases h : s.dir = .read ∧ Machine.Kind.gated k = true <;> simp [h]

/-- Every result of `requireLoaded` (44_descriptor_validator.md R261). -/
theorem run_requireLoaded (c : Cat) (s : State) : requireLoaded c s =
    if s.loaded c = true then .ok () s else .error (.raised (.state .notLoaded)) s := by
  unfold requireLoaded
  simp only [run_bind, run_get, run_require]

/-- Every result of the tests of a request (41_frame_parser.md R165, R170). -/
theorem run_requestTarget (name : List Byte) (s : State) : requestTarget name s =
    match targetNamed s.cfg name with
    | none => .error (.raised (.framing .unknownTarget)) s
    | some t =>
      if s.tc.inProgress = false then
        if s.loaded t.cat = true then .ok t s else .error (.raised (.state .notLoaded)) s
      else .error (.raised (.state .busy)) s := by
  unfold requestTarget
  simp only [run_bind, run_get]
  cases targetNamed s.cfg name with
  | none => simp
  | some t =>
    simp only [run_bind, run_require]
    by_cases h1 : s.tc.inProgress = false <;> by_cases h2 : s.loaded t.cat = true <;> simp [h1, h2]

/-- Every result of a storage call of a request (41_frame_parser.md R165, R170). -/
theorem run_requestCall (call : Act Bool) (cause : StorageCause) (s : State) : requestCall call cause s =
    match call s with
    | .ok true t => .ok () t
    | .ok false t => .error (.raised (.storage cause)) (t.setHandle .tx (t.handle .tx).close)
    | .error e t => .error e t := by
  unfold requestCall
  rw [run_bind]
  cases call s with
  | error e t => rfl
  | ok b t => cases b <;> simp [run_bind]

/-! ### Lengths of a record (20_memory.md R80) -/

@[simp] theorem leBytes_length (n v : Nat) : (leBytes n v).length = n := by
  induction n generalizing v with
  | zero => rfl
  | succ n ih => simp [leBytes, ih]

@[simp] theorem encUint_length (e : Endian) (n v : Nat) : (encUint e n v).length = n := by
  cases e <;> simp [encUint]

@[simp] theorem arrayBytes_length (cfg : Config) (c : Cat) (ctx : BootContext) :
    (arrayBytes cfg c ctx).length = arrLen c := by
  cases c <;> simp [arrayBytes, descriptorBytes, encWord, arrLen]

@[simp] theorem serialise_length (cfg : Config) (c : Cat) (ctx : BootContext) :
    (serialise cfg c ctx).length = recLen cfg c := by
  simp [serialise, encWord, recLen, Nat.add_assoc]

/-! ### The context copies (44_descriptor_validator.md R262, R275) -/

/-- The copy sectors of a well-formed configuration lie in the address space and hold a record (00_scope.md
R10; 20_memory.md R61). -/
theorem copyArea_ok {cfg : Config} (h : cfg.wf) (c : Cat) (which : Copy) :
    (copyArea cfg c which).fits = true ∧ recLen cfg c ≤ (copyArea cfg c which).size.toNat := by
  obtain ⟨-, hf, hs, -⟩ := h
  have key : ∀ r ∈ cfg.regions, r.start + r.size ≤ 2 ^ 32 := hf
  constructor
  · have : ∃ r ∈ cfg.regions, r.start = (copyAddr cfg c which).toNat ∧
        r.size = (cfg.sectorSize (cfg.dev c)).toNat := by
      cases c <;> cases which <;> simp [Config.regions, copyAddr, Config.dev]
    obtain ⟨r, hr, h1, h2⟩ := this
    have := key r hr
    rw [h1, h2] at this
    exact decide_eq_true this
  · obtain ⟨h1, h2⟩ := hs
    cases c
    · simp only [recLen, arrLen, copyArea, Config.dev]
      omega
    · simp only [recLen, arrLen, copyArea, Config.dev]
      omega

/-- Reading a descriptor: its value where its category is loaded, else the fault of 10_state.md R46. -/
@[simp] theorem run_descriptorOf (s u : State) (c : Cat) (b : Bank) :
    descriptorOf s c b u =
      if s.loaded c = true then .ok (s.desc c b) u else .error (.fault (.valueless (.bootContext c))) u := by
  unfold descriptorOf
  split <;> rfl

/-- The target of a transfer: its value where one is held, else the fault of 10_state.md R46. -/
@[simp] theorem run_targetOf (s u : State) :
    targetOf s u = match s.tc.targetId with
      | some t => .ok t u
      | none => .error (.fault (.valueless .targetId)) u := by
  unfold targetOf
  split <;> simp_all

/-- The bytes CRC_BUF reads are as many as its size (40_crc_engine.md R151). -/
@[simp] theorem bufferOperand_length (ctr n : Nat) (buffer : List Byte) :
    (bufferOperand ctr n buffer).length = n := by
  simp only [bufferOperand, List.length_append, List.length_take, freeBytes_length]
  omega

/-- A buffer of the size CRC_BUF names is read as it is. -/
@[simp] theorem bufferOperand_exact (ctr : Nat) (buffer : List Byte) :
    bufferOperand ctr buffer.length buffer = buffer := by simp [bufferOperand, freeBytes]

/-- The image of a context fills its sector (20_memory.md R82). -/
theorem copyImage_length {cfg : Config} (h : cfg.wf) (c : Cat) (which : Copy) (ctx : BootContext) :
    (copyImage cfg c ctx).length = (copyArea cfg c which).size.toNat := by
  have hl : (serialise cfg c ctx).length = recLen cfg c := serialise_length cfg c ctx
  have := (copyArea_ok h c which).2
  simp only [copyImage, padding, List.length_append, hl, List.length_replicate]
  simp only [copyArea] at this ⊢
  omega

/-- `read_copy` where storage answers: the record of the copy; no register but the tapes and SB_PM changes
(44_descriptor_validator.md R262). -/
theorem run_readCopy {s : State} (hc : s.cfg.wf) (hs : s.storageAnswers) (c : Cat) (which : Copy) :
    readCopy c which s = .ok (some (s.record c which))
      { s with
        storageFates := s.storageFates.tail.tail
        readGlitches := s.readGlitches.tail
        sbPm := { bound := false, area := copyArea s.cfg c which, cur := 0 } } := by
  obtain ⟨hfit, hrec⟩ := copyArea_ok hc c which
  set u := s.setHandle .pm { bound := true, area := copyArea s.cfg c which, cur := 0 } with hu
  have hu' : u.storageAnswers := hs.congr (t := u) (by simp [hu]) (by simp [hu])
  have h1 : memInit .pm u = .ok true u.spendFate := memInit_ok hu'.fate (by simp [hu]) (by simp [hu, hfit])
  have h2 := memRead_ok (h := .pm) (off := 0) (n := recLen s.cfg c) (s := u.spendFate) hu'.spendFate.fate
    hu'.spendFate.glitch (by simp [hu]) (by simp [hu, hfit]) (by simpa [hu] using hrec)
  unfold readCopy
  simp only [run_bind, run_get, run_memBind, ← hu, h1, if_true, h2, run_memClose, run_pure]
  congr 1

/-- The device after a copy is rewritten: its sector erased, then the context's image programmed
(44_descriptor_validator.md R275; 20_memory.md R75, R82). -/
def rewritten (cfg : Config) (c : Cat) (which : Copy) (ctx : BootContext) (m : Memory) : Memory :=
  Memory.writeBytes
    (Memory.fill m (copyAddr cfg c which).toNat (cfg.sectorSize (cfg.dev c)).toNat cfg.erasedByte)
    (copyAddr cfg c which).toNat (copyImage cfg c ctx)

theorem rewritten_wf {m : Memory} (hm : Memory.wf m) (cfg : Config) (c : Cat) (which : Copy) (ctx : BootContext) :
    Memory.wf (rewritten cfg c which ctx m) := Memory.writeBytes_wf (Memory.fill_wf hm ..) ..

/-- A rewritten copy holds the context's image, and no byte outside its sector changed. -/
theorem rewritten_holds {cfg : Config} (hc : cfg.wf) (c : Cat) (which : Copy) (ctx : BootContext) {m : Memory}
    (hm : Memory.wf m) : holdsCopies cfg c ctx [which] m (rewritten cfg c which ctx m) := by
  have hl := copyImage_length hc c which ctx
  constructor
  · intro w hw i b hb
    obtain rfl : w = which := by simpa using hw
    exact Memory.read_writeBytes_inside (Memory.fill_wf hm ..) (by omega) (by simpa using hb)
  · intro a ha
    have ha' := ha which (by simp)
    simp only [Area.covers, copyArea, true_and] at ha'
    simp only [copyArea] at hl
    rw [rewritten, Memory.read_writeBytes_outside (Memory.fill_wf hm ..) (by omega), Memory.read_fill hm,
      if_neg ha']

/-- A rewritten copy reads back as the context's record. -/
theorem readBytes_rewritten (cfg : Config) (c : Cat) (which : Copy) (ctx : BootContext) {m : Memory}
    (hm : Memory.wf m) :
    Memory.readBytes (rewritten cfg c which ctx m) (copyAddr cfg c which).toNat (recLen cfg c) =
      serialise cfg c ctx := by
  refine List.ext_getElem? fun i => ?_
  rw [Memory.readBytes_getElem?]
  have hl : (serialise cfg c ctx).length = recLen cfg c := serialise_length cfg c ctx
  by_cases hi : i < recLen cfg c
  · rw [if_pos hi]
    have h1 : (copyImage cfg c ctx)[i]? = (serialise cfg c ctx)[i]? := by
      rw [copyImage, List.getElem?_append_left (by omega)]
    have h2 : (serialise cfg c ctx)[i]? = some ((serialise cfg c ctx)[i]'(by omega)) := by simp [hl, hi]
    rw [h2, rewritten, Memory.read_writeBytes_inside (Memory.fill_wf hm ..) (b := (serialise cfg c ctx)[i]'(by omega))
      (by omega) (by rw [Nat.add_sub_cancel_left, h1, h2])]
  · rw [if_neg hi, List.getElem?_eq_none (by omega)]

/-- The state an erase and a programming of one area leave, with its handle closed. -/
theorem erase_program_state (s : State) (A : Area) (image : List Byte) :
    let u := s.setHandle .pm { bound := true, area := A, cur := 0 }
    let v := (u.spendFate.spendFate.eraseArea A).setHandle .pm { bound := true, area := A, cur := 0 }
    let w := (v.spendFate.program A.dev (Handle.cursor { bound := true, area := A, cur := 0 }) image).setHandle .pm
      { bound := true, area := A, cur := 0 + BitVec.ofNat 32 image.length }
    let x := w.spendFate.spendFate.spendGlitch
    x.setHandle .pm (x.handle .pm).close =
      { s.setStore A.dev (w.store A.dev) with
        storageFates := s.storageFates.tail.tail.tail.tail.tail
        readGlitches := s.readGlitches.tail
        freeCtr := s.freeCtr + image.length
        sbPm := { bound := false, area := A, cur := 0 } } := by
  obtain ⟨name, dev, start, size⟩ := A
  cases dev <;>
    simp only [State.setHandle, State.spendFate, State.eraseArea, State.program, State.setStore, State.store,
      State.spendGlitch, State.handle, Handle.close]

/-- `persist_copy` where storage answers: it succeeds, and the copy's sector is rewritten
(44_descriptor_validator.md R275). -/
theorem run_persistCopy {s : State} (hc : s.cfg.wf) (hs : s.storageAnswers) (c : Cat) (which : Copy)
    (ctx : BootContext) (hm : Memory.wf (s.store (s.cfg.dev c))) :
    persistCopy c which ctx s = .ok true
      { s.setStore (s.cfg.dev c) (rewritten s.cfg c which ctx (s.store (s.cfg.dev c))) with
        storageFates := s.storageFates.tail.tail.tail.tail.tail
        readGlitches := s.readGlitches.tail
        freeCtr := s.freeCtr + (copyImage s.cfg c ctx).length
        sbPm := { bound := false, area := copyArea s.cfg c which, cur := 0 } } := by
  obtain ⟨hfit, hrec⟩ := copyArea_ok hc c which
  have hlen := copyImage_length hc c which ctx
  set A := copyArea s.cfg c which with hA
  have hdev : A.dev = s.cfg.dev c := rfl
  have hstart : A.start = copyAddr s.cfg c which := rfl
  have hsize : A.size = s.cfg.sectorSize (s.cfg.dev c) := rfl
  set u := s.setHandle .pm { bound := true, area := A, cur := 0 } with hu
  have hu' : u.storageAnswers := hs.congr (t := u) (by simp [hu]) (by simp [hu])
  have h1 : memInit .pm u = .ok true u.spendFate := memInit_ok hu'.fate (by simp [hu]) (by simp [hu, hfit])
  have h2 := memErase_ok (h := .pm) (s := u.spendFate) hu'.spendFate.fate (by simp [hu]) (by simp [hu, hfit])
  set v := (u.spendFate.spendFate.eraseArea (u.spendFate.handle .pm).area).setHandle .pm
    { u.spendFate.handle .pm with cur := 0 } with hv
  have hv' : v.storageAnswers := hu'.spendFate.spendFate.congr (t := v) (by simp [hv]) (by simp [hv])
  have h3 := memWrite_ok (h := .pm) (bytes := copyImage s.cfg c ctx) (s := v) hv'.fate (by simp [hv, hu])
    (by simp [hv, hu, hfit]) (by simp [hv, hu, hlen])
  set w := (v.spendFate.program (v.handle .pm).area.dev (v.handle .pm).cursor (copyImage s.cfg c ctx)).setHandle .pm
    { v.handle .pm with cur := (v.handle .pm).cur + BitVec.ofNat 32 (copyImage s.cfg c ctx).length } with hw
  have hw' : w.storageAnswers := hv'.spendFate.congr (t := w) (by simp [hw]) (by simp [hw])
  have h4 : memFlush .pm w = .ok (some (w.handle .pm).cur) w.spendFate := memFlush_ok hw'.fate (by simp [hw, hv, hu])
  have hvd : v.store A.dev = Memory.fill (s.store A.dev) A.start.toNat A.size.toNat s.cfg.erasedByte := by
    have := State.eraseArea_store u.spendFate.spendFate A
    simpa [hv, hu] using this
  have hwd : w.store A.dev = rewritten s.cfg c which ctx (s.store A.dev) := by
    have e1 : w.store A.dev = (v.spendFate.program A.dev A.start.toNat (copyImage s.cfg c ctx)).store A.dev := by
      simp [hw, hv, hu, Handle.cursor]
    rw [e1, State.program_store, State.spendFate_store, hvd, Memory.programmed_erased]
    · rfl
    · intro x hx1 hx2
      rw [Memory.read_fill (hdev ▸ hm), if_pos ⟨hx1, by omega⟩]
      simp [hv, hu]
  have h5 := memRead_ok (h := .pm) (off := 0) (n := recLen s.cfg c) (s := w.spendFate) hw'.spendFate.fate
    hw'.spendFate.glitch (by simp [hw, hv, hu]) (by simp [hw, hv, hu, hfit]) (by simpa [hw, hv, hu] using hrec)
  have h6 : Memory.readBytes (w.spendFate.store (w.spendFate.handle .pm).area.dev)
      ((w.spendFate.handle .pm).area.start.toNat + 0) (recLen s.cfg c) = serialise s.cfg c ctx := by
    have : (w.spendFate.handle .pm).area = A := by simp [hw, hv, hu]
    rw [this, Nat.add_zero, State.spendFate_store, hwd]
    exact readBytes_rewritten s.cfg c which ctx hm
  rw [h6] at h5
  unfold persistCopy writeCopy
  simp only [run_bind, run_get, run_memBind, ← hA, ← hu, h1, if_true, h2, h3, h4, run_pure, Option.isSome_some, h5,
    run_memClose]
  have h7 := erase_program_state s A (copyImage s.cfg c ctx)
  have hvh : u.spendFate.handle .pm = { bound := true, area := A, cur := 0 } := by simp [hu]
  have hwh : v.handle .pm = { bound := true, area := A, cur := 0 } := by simp [hv, hu]
  simp only [← hu] at h7
  rw [hvh] at hv
  simp only at hv
  rw [← hv] at h7
  rw [hwh] at hw
  simp only at hw
  rw [← hw] at h7
  simp only [h7, hwd, beq_self_eq_true]
  rfl

end Sys2Proof.Machine
end

