-- ==== Sys2Proof/Tests/Slice0.lean ====
section
/-! SUPPORT. Tests: the WellFormed smoke, one word of every encoding, one or two single steps an instruction with
results from spec/95_test_vectors.md, and a state that meets the hypotheses of each obligation. -/

namespace Sys2Proof.Tests

open Sys2Proof Sys2Proof.Machine

/- One theorem after another: side by side they hold more threads' stacks than the check's memory allows. -/
set_option Elab.async false

/-! ## WellFormed: the check accepts the default record and refuses an ill-formed one, check by check -/

abbrev dflt : Config := Config.default

theorem test_default_wellFormed : dflt.wf := by decide +kernel

theorem test_regionsDisjoint_refuses :
    ¬ { dflt with appBank1 := ⟨0x17FF, 1061⟩ }.regionsDisjoint := by decide +kernel

theorem test_regionsFit_refuses : ¬ { dflt with auxBank1 := ⟨0xFFFFF001, 4096⟩ }.regionsFit := by decide +kernel

theorem test_copiesDistinct_refuses : ¬ { dflt with auxCtxBackup := 0 }.copiesDistinct := by decide +kernel

theorem test_copiesAligned_refuses : ¬ { dflt with appCtxBackup := 0x41 }.copiesAligned := by decide +kernel

theorem test_sectorsHoldRecords_refuses :
    ¬ { dflt with spiSector := 55 }.sectorsHoldRecords ∧
    ¬ { dflt with flashSector := 39, activeBytes := 3 }.sectorsHoldRecords ∧
    { dflt with flashSector := 40, spiSector := 56 }.sectorsHoldRecords := by decide +kernel

theorem test_recordsFit_refuses : ¬ { dflt with flashSector := 40, activeBytes := 5 }.recordsFit := by
  decide +kernel

theorem test_commandCodesOk_refuses :
    ¬ { dflt with cmdCodes := { dflt.cmdCodes with setBank1 := 1 } }.commandCodesOk ∧
    ¬ { dflt with cmdMax := 14 }.commandCodesOk ∧ ¬ { dflt with cmdMin := 2 }.commandCodesOk := by decide +kernel

theorem test_namesOk_refuses :
    ¬ { dflt with targetNames := [([0x61], .appBank0), ([0x61], .auxBank0)] }.namesOk ∧
    ¬ { dflt with targetNames := [([0x61, 0], .appBank0)] }.namesOk ∧
    ¬ { dflt with targetNames := [(List.replicate 8 0x61, .appBank0)] }.namesOk := by decide +kernel

theorem test_activeEncOk_refuses :
    ¬ { dflt with activeEnc := ⟨0, 1, 1⟩ }.activeEncOk ∧
    ¬ { dflt with activeBytes := 1, activeEnc := ⟨0, 1, 256⟩ }.activeEncOk := by decide +kernel

theorem test_instruction_wf_refuses :
    ¬ (Instr.rrq 4 [0x61, 0]).wf dflt ∧ ¬ (Instr.wrq (List.replicate 8 0x61)).wf dflt ∧
    ¬ (Instr.data 1 (List.replicate 513 0)).wf dflt ∧ ¬ (Instr.cmd 7 []).wf dflt ∧
    ¬ (Instr.cmd 13 [0, 0, 0, 0]).wf dflt ∧ ¬ (Instr.crcBuf 2 [0]).wf dflt := by
  simp only [Instr.wf]
  decide +kernel

/-! ## Decoding: words written out from 30_encoding.md R102 to R109, R115 and R125 -/

theorem test_decode_frames :
    decode dflt (.frame [0x00, 0x01, 0x12, 0x34, 0x56, 0x78, 0x73, 0x70, 0x69, 0x31, 0x00, 0xAA]) =
      .ok (.rrq 0x12345678 [0x73, 0x70, 0x69, 0x31]) ∧
    decode dflt (.frame [0x00, 0x02, 0x73, 0x70, 0x69, 0x30, 0x00]) = .ok (.wrq [0x73, 0x70, 0x69, 0x30]) ∧
    decode dflt (.frame [0x00, 0x03, 0xAB, 0xCD, 0x01]) = .ok (.data 0xABCD [0x01]) ∧
    decode dflt (.frame [0x00, 0x04, 0x01, 0x02]) = .ok (.ack 0x0102) ∧
    decode dflt (.frame [0x00, 0x05, 0x00, 0x03, 0x41, 0x42]) = .ok (.error 3) ∧
    decode dflt (.frame [0x00, 0x06, 0x01, 0x00, 0xEE]) = .ok (.cmd 0x0100 [0xEE]) ∧
    decode dflt (.frame [0x00, 0x06, 0x00, 0x0D, 0x00]) = .ok (.cmd 13 [0x00]) ∧
    decode dflt (.frame [0x00, 0x07, 0xDE, 0xAD]) = .ok .debug ∧
    decode dflt (.frame []) = .ok .empty := by decide +kernel

theorem test_decode_commands :
    decode dflt (.frame [0x00, 0x06, 0x00, 0x01]) = .ok .cmdBoot ∧
    decode dflt (.frame [0x00, 0x06, 0x00, 0x02]) = .ok .cmdReset ∧
    decode dflt (.frame [0x00, 0x06, 0x00, 0x03]) = .ok .cmdSwap ∧
    decode dflt (.frame [0x00, 0x06, 0x00, 0x04]) = .ok .cmdBootInfo ∧
    decode dflt (.frame [0x00, 0x06, 0x00, 0x05]) = .ok .cmdPowerOn ∧
    decode dflt (.frame [0x00, 0x06, 0x00, 0x06]) = .ok .cmdPowerOff ∧
    decode dflt (.frame [0x00, 0x06, 0x00, 0x07]) = .ok .cmdEnd ∧
    decode dflt (.frame [0x00, 0x06, 0x00, 0x08]) = .ok .cmdSpiEnd ∧
    decode dflt (.frame [0x00, 0x06, 0x00, 0x09]) = .ok .cmdTriggerWatchdog ∧
    decode dflt (.frame [0x00, 0x06, 0x00, 0x0A]) = .ok .cmdEraseSpi ∧
    decode dflt (.frame [0x00, 0x06, 0x00, 0x0B]) = .ok .cmdSetBank0 ∧
    decode dflt (.frame [0x00, 0x06, 0x00, 0x0C]) = .ok .cmdSetBank1 ∧
    decode dflt (.frame [0x00, 0x06, 0x00, 0x0D, 0x12, 0x34, 0x56, 0x78]) = .ok (.cmdCrc 0x12345678) := by
  decide +kernel

theorem test_decode_operations :
    decode dflt (.operation 0x010000000000 []) = .ok .sessionReset ∧
    decode dflt (.operation 0x020200000000 []) = .ok (.load .aux) ∧
    decode dflt (.operation 0x030300000000 []) = .ok (.validate .aux .b1) ∧
    decode dflt (.operation 0x040000000000 []) = .ok (.swap .app) ∧
    decode dflt (.operation 0x050312345678 []) = .ok (.fixCrc .aux .b1 0x12345678) ∧
    decode dflt (.operation 0x060200000000 []) = .ok (.commit .aux) ∧
    decode dflt (.operation 0x070100000426 []) = .ok (.crcRegion .app .b1 1062) ∧
    decode dflt (.operation 0x080000000002 [7, 8]) = .ok (.crcBuf 2 [7, 8]) ∧
    decode dflt (.operation 0x090600000000 []) = .ok (.setActive .aux .bank0) ∧
    decode dflt (.operation 0x090800000000 []) = .ok (.setActive .app .bank1) := by decide +kernel

/-- Vectors V-FE-1, V-FE-3, V-FE-5, V-RRQ-3, V-ACK-2, V-OP-1, V-OP-5. -/
theorem test_decode_rejects :
    decode dflt (.frame [0x00]) = .error (.frame .size) ∧
    decode dflt (.frame [0x01, 0x02, 0x61, 0x00]) = .error (.frame .sentinel) ∧
    decode dflt (.frame [0x00, 0x08, 0x00, 0x00]) = .error (.frame .opcode) ∧
    decode dflt (.frame [0x00, 0x01, 0, 0, 0, 0x10, 0x61, 0x70, 0x70]) = .error (.frame (.noName .readRequest)) ∧
    decode dflt (.frame [0x00, 0x04, 0x00, 0x00, 0x00]) = .error (.frame (.kindSize .ack)) ∧
    decode dflt (.operation 0x000000000000 []) = .error .badOperation ∧
    decode dflt (.operation 0x031000000000 []) = .error .badOperation ∧
    decode dflt (.operation 0x090C00000000 []) = .error .badOperation := by decide +kernel

/-- FRAME_IN and the micro-operations have no encoding of their own (30_encoding.md R127). -/
theorem test_no_encoding : encode dflt .frameIn = none ∧ encode dflt .crcInit = none ∧
    encode dflt (.crcUpdate 0) = none ∧ encode dflt .crcFinal = none := by decide +kernel

theorem test_table_words :
    decodeTableWord 16 0x0004 = some (.ack 0) ∧ decodeTableWord 32 0x0006000D = some (.cmdCrc 0) ∧
    decodeTableWord 48 0x090800000000 = some (.setActive .app .bank1) ∧ decodeTableWord 8 0 = some .empty := by
  decide +kernel

/-! ## States for single steps -/

/-- The application context of a fresh LOAD under fixture T, `FRESH_APP` of 95_test_vectors.md section 0. -/
def freshApp : BootContext :=
  { desc0 := ⟨0x1000, 0, 0x800, 0xDEADBEEF, 0, 0⟩, desc1 := ⟨0x2000, 0, 0x425, 0xDEADBEEF, 0, 0⟩
    active := .none, ownCrc := 0xB3364F42 }

/-- `FRESH_APP` of 95_test_vectors.md section 0. -/
def freshRecord : List Byte :=
  [0x00, 0x10, 0x00, 0x00, 0x00, 0x00, 0x00, 0x00, 0x00, 0x08, 0x00, 0x00, 0xEF, 0xBE, 0xAD, 0xDE,
   0x00, 0x20, 0x00, 0x00, 0x00, 0x00, 0x00, 0x00, 0x25, 0x04, 0x00, 0x00, 0xEF, 0xBE, 0xAD, 0xDE,
   0x00, 0x00, 0x00, 0x00, 0x42, 0x4F, 0x36, 0xB3]

/-- The auxiliary context of a fresh LOAD under fixture T, `FRESH_AUX`. -/
def freshAux : BootContext :=
  { desc0 := ⟨0x1000, 0, 0x1000, 0xDEADBEEF, 0, 0xDEADBEEF⟩
    desc1 := ⟨0x2000, 0, 0x1000, 0xDEADBEEF, 0, 0xDEADBEEF⟩, active := .none, ownCrc := 0x17F468A6 }

/-- Both categories loaded, a session open, no transfer. -/
def idle : State :=
  { State.reset with sessionOpen := true, loadedApp := true, loadedAux := true, bcApp := freshApp, bcAux := freshAux }

/-- An area under fixture T. -/
def areaT (name : List Byte) (dev : Device) (start size : Word) : Area := ⟨name, dev, start, size⟩

/-- A write transfer to AppBank1 just opened (V-WRQ-1). -/
def writing : State :=
  { idle with
    tc := ⟨true, some .appBank1, 0, 0, false⟩, dir := .write
    sbTx := ⟨true, areaT [0x61, 0x70, 0x70, 0x72, 0x6F, 0x6D, 0x31] .flash 0x2000 1061, 0⟩ }

/-- A write transfer to AuxBank1 after `DATA 1, 9D 0A D9 6D` (V-CMD-23). -/
def uploading : State :=
  { idle with
    spi := [(0x2000, 0x9D), (0x2001, 0x0A), (0x2002, 0xD9), (0x2003, 0x6D)]
    tc := ⟨true, some .auxBank1, 1, 0, false⟩, dir := .write
    sbTx := ⟨true, areaT [0x73, 0x70, 0x69, 0x31] .spi 0x2000 4096, 4⟩ }

/-- A read-back of 516 bytes of AppBank0, block 0 sent. -/
def reading : State :=
  { idle with
    tc := ⟨true, some .appBank0, 0, 516, false⟩, dir := .read, rbOff := 512
    sbTx := ⟨true, areaT [0x61, 0x70, 0x70, 0x72, 0x6F, 0x6D, 0x30] .flash 0x1000 2048, 0⟩ }

/-- A read-back whose last block is sent. -/
def readDone : State := { reading with tc := { reading.tc with lastBlock := 1 }, rbOff := 516 }

/-- A 16-byte bank holding "123456789" and seven erased bytes (40_crc_engine.md R150's example). -/
def digits : State :=
  { idle with
    flash := [(0x1000, 0x31), (0x1001, 0x32), (0x1002, 0x33), (0x1003, 0x34), (0x1004, 0x35), (0x1005, 0x36),
      (0x1006, 0x37), (0x1007, 0x38), (0x1008, 0x39)]
    bcApp := { freshApp with desc0 := ⟨0x1000, 0, 16, 0xDEADBEEF, 0, 0⟩ } }

/-- The next state of a step on one event. -/
def next? (s : State) (e : Event) : Option State :=
  match step { s with inbox := [e] } with
  | .next t => some t
  | .fault _ => none
  | .refused _ => none

/-- The outcome and the emitted frames of a step on one frame. -/
def onFrame (s : State) (bytes : List Byte) : Option (StepOutcome × List (List Byte)) :=
  (next? s (.frame bytes)).map fun t => (t.outcome, t.txq)

/-- The outcome of a step on one operation word. -/
def onWord (s : State) (w : BitVec 48) : Option StepOutcome :=
  (next? s (.operation w [])).map State.outcome

/-- The next state of an instruction run directly. -/
def ran? (i : Instr) (s : State) : Option State :=
  match exec i s with
  | .next t => some t
  | .fault _ => none
  | .refused _ => none

/-! ## Single steps -/

/-- V-RRQ-9. -/
theorem test_rrq : (next? idle (.frame [0, 1, 0, 0, 0, 4, 0x61, 0x70, 0x70, 0x72, 0x6F, 0x6D, 0x30, 0])).map
    (fun t => (t.outcome, t.txq, t.tc, t.dir, t.rbOff)) =
    some (.proceed, [[0, 3, 0, 0, 0xFF, 0xFF, 0xFF, 0xFF]], ⟨true, some .appBank0, 0, 4, false⟩, .read, 4) := by
  decide +kernel

/-- V-RRQ-1. -/
theorem test_rrq_zero : (next? idle (.frame [0, 1, 0, 0, 0, 0, 0x61, 0x70, 0x70, 0x72, 0x6F, 0x6D, 0x30, 0])).map
    (fun t => (t.outcome, t.txq, phase t, t.sbTx.bound)) =
    some (.proceed, [[0, 6, 0, 7]], .awaitingRequest, false) := by decide +kernel

/-- V-WRQ-1. -/
theorem test_wrq : (next? { idle with flash := [(0x2000, 0), (0x2424, 0), (0x2425, 0)] }
      (.frame [0, 2, 0x61, 0x70, 0x70, 0x72, 0x6F, 0x6D, 0x31, 0])).map
    (fun t => (t.outcome, t.txq, t.tc, t.sbTx, Memory.readBytes t.flash 0x2424 2)) =
    some (.proceed, [[0, 4, 0, 0]], writing.tc, writing.sbTx, [0xFF, 0]) := by decide +kernel

/-- V-WRQ-6: busy, and the bank is not erased. -/
theorem test_wrq_busy : (next? { writing with flash := [(0x1000, 0)] }
      (.frame [0, 2, 0x61, 0x70, 0x70, 0x72, 0x6F, 0x6D, 0x30, 0])).map (fun t => (t.outcome, t.flash)) =
    some (.error (.state .busy), [(0x1000, 0)]) := by decide +kernel

/-- V-DATA-1. -/
theorem test_data : (next? writing (.frame [0, 3, 0, 1, 0xAA, 0xBB])).map
    (fun t => (t.outcome, t.txq, t.tc.lastBlock, t.sbTx.cur, Memory.readBytes t.flash 0x1FFF 4)) =
    some (.proceed, [[0, 4, 0, 1]], 1, 2, [0xFF, 0xAA, 0xBB, 0xFF]) := by decide +kernel

/-- V-DATA-9: block 65536 is required and no frame can carry it. -/
theorem test_data_no_wrap : (next? { writing with tc := { writing.tc with lastBlock := 0xFFFF } }
      (.frame [0, 3, 0, 0, 0xAA])).map (fun t => (t.outcome, t.sessionOpen, t.tc.inProgress, t.flash)) =
    some (.error (.sequence .blockMismatch), false, true, []) := by decide +kernel

/-- V-ACK-5, with four bytes left instead of 88. -/
theorem test_ack_reading : (next? reading (.frame [0, 4, 0, 0])).map
    (fun t => (t.outcome, t.txq, t.tc.lastBlock, t.rbOff)) =
    some (.proceed, [[0, 3, 0, 1, 0xFF, 0xFF, 0xFF, 0xFF]], 1, 516) := by decide +kernel

/-- V-ACK-4. -/
theorem test_ack_mismatch : (next? writing (.frame [0, 4, 0, 1])).map
    (fun t => (t.outcome, t.sessionOpen, t.tc.inProgress)) =
    some (.error (.sequence .ackMismatch), false, true) := by decide +kernel

/-- V-ERR-6. -/
theorem test_error_reading : (next? reading (.frame [0, 5, 0, 2, 0x62, 0x61, 0x64, 0])).map
    (fun t => (t.outcome, phase t, t.sbTx.bound)) =
    some (.peerError 2, .awaitingRequest, false) := by decide +kernel

/-- V-ERR-5. -/
theorem test_error_code : onFrame idle [0, 5, 0, 0] = some (.error (.framing .errorCode), []) ∧
    onFrame idle [0, 5, 0, 8] = some (.error (.framing .errorCode), []) := by decide +kernel

/-- V-DBG-4. -/
theorem test_debug : (next? { idle with emptyReads := true } (.frame [0, 7])).map
    (fun t => (t.outcome, t.emptyReads)) = some (.proceed, false) := by decide +kernel

/-- V-CMD-14, V-CMD-15. -/
theorem test_cmd : onFrame idle [0, 6, 0, 0x0E] = some (.error (.framing .commandCode), []) ∧
    onFrame idle [0, 6, 0, 0x0D, 0, 0, 0] = some (.error (.framing .size), []) := by decide +kernel

/-- V-CMD-1 to V-CMD-12. -/
theorem test_terminal_commands :
    (List.range 12).map (fun k => onFrame idle [0, 6, 0, BitVec.ofNat 8 (k + 1)]) =
    (List.range 12).map (fun k => some (.terminal (BitVec.ofNat 16 (k + 1)), [])) := by decide +kernel

/-- V-CMD-18: crc_received is not tested. -/
theorem test_cmdEnd_abandons : (next? writing (.frame [0, 6, 0, 7])).map
    (fun t => (t.outcome, phase t, t.tc, t.sbTx.bound)) =
    some (.terminal 7, .idle, TransferContext.blank, false) := by decide +kernel

/-- V-CMD-23. -/
theorem test_cmdCrc : (next? uploading (.frame [0, 6, 0, 0x0D, 0, 0, 0, 0])).map
    (fun t => (t.outcome, t.bcAux.desc1, phase t)) =
    some (.writeContext .aux, ⟨0x2000, 4, 4096, 0, 4, 0⟩, .finalizing) := by decide +kernel

/-- 42_command_dispatch.md R205, 60_exceptions.md R305: a wrong value. -/
theorem test_cmdCrc_mismatch : (next? uploading (.frame [0, 6, 0, 0x0D, 0, 0, 0, 1])).map
    (fun t => (t.outcome, t.bcAux.desc1, phase t)) =
    some (.error (.crcMismatch 0 1), freshAux.desc1, .idle) := by decide +kernel

/-- V-SES-9. -/
theorem test_sessionReset : (next? writing (.operation 0x010000000000 [])).map
    (fun t => (t.outcome, phase t, t.tc)) = some (.proceed, .awaitingRequest, TransferContext.blank) := by
  decide +kernel

/-- V-SES-3, V-SES-6. -/
theorem test_empty : onFrame idle [] = some (.proceed, []) ∧
    onFrame { idle with emptyReads := true } [] = some (.error (.transport .emptyRead), []) ∧
    onFrame State.reset [] = some (.error (.state .noSession), []) := by decide +kernel

/-- V-FE-11, V-FE-16, V-ORD-3: the order of the front end's tests. -/
theorem test_frameIn : onFrame State.reset [1] = some (.error (.state .noSession), []) ∧
    onFrame reading [0, 9] = some (.error (.framing .opcode), []) ∧
    onFrame idle [1, 9] = some (.error (.framing .sentinel), []) ∧
    onFrame reading [0, 2] = some (.error (.state .wrongDirection), []) := by decide +kernel

/-- 10_state.md R45, R46: FB and FLEN hold no value until a frame is presented. -/
theorem test_frameIn_no_frame : (ran? .frameIn State.reset).isNone = true ∧
    (next? State.reset (.frame [0, 7])).map State.framePresented = some true := by decide +kernel

/-- V-LD-1: the record of `FRESH_APP`. -/
theorem test_load_fresh : (next? State.reset (.operation 0x020000000000 [])).map
    (fun t => (t.outcome, t.bcApp, Memory.readBytes t.flash 0x40 40)) =
    some (.loaded .fresh true, freshApp, freshRecord) := by decide +kernel

/-- V-LD-11. -/
theorem test_load_failure :
    onWord { State.reset with storageFates := [.completes, .completes, .completes, .fails] } 0x020000000000 =
      some (.error (.storage .read)) := by decide +kernel

/-- V-VAL-1, V-VAL-5 and V-VAL-8. -/
theorem test_validate : onWord idle 0x030000000000 = some (.status .empty) ∧
    onWord { uploading with bcAux := { freshAux with desc1 := ⟨0x2000, 4, 4096, 0, 4, 0⟩ } } 0x030300000000 =
      some (.status .valid) ∧
    onWord State.reset 0x030000000000 = some (.error (.state .notLoaded)) := by decide +kernel

/-- V-VAL-6 and V-VAL-9: a retry that gives 0 again, and a span past the bank. -/
theorem test_validate_invalid :
    onWord { uploading with bcAux := { freshAux with desc1 := ⟨0x2000, 4, 4096, 0x5CBC0074, 4, 0⟩ } }
      0x030300000000 = some (.status .invalid) ∧
    onWord { idle with bcAux := { freshAux with desc0 := ⟨0x1000, 5000, 4096, 1, 0, 0⟩ } } 0x030200000000 =
      some (.status .invalid) := by decide +kernel

/-- V-SW-1. -/
theorem test_swap : (next? idle (.operation 0x040000000000 [])).map
    (fun t => (t.outcome, Memory.readBytes t.flash 32 4, Memory.readBytes t.flash 0x60 4)) =
    some (.swapped .bank0 true, [1, 0, 0, 0], [1, 0, 0, 0]) := by decide +kernel

/-- V-SW-4: persisting the primary fails. -/
theorem test_swap_failure : (next?
      { idle with bcApp := { freshApp with active := .bank0 }, storageFates := [.fails] }
      (.operation 0x040000000000 [])).map (fun t => (t.outcome, t.bcApp.active, Memory.readBytes t.flash 0x40 2)) =
    some (.swapped .bank1 false, .bank1, [0xFF, 0xFF]) := by decide +kernel

/-- 44_descriptor_validator.md R274 on the bank of 40_crc_engine.md R150's example. -/
theorem test_fixCrc : (next? digits (.operation 0x050000000009 [])).map
    (fun t => (t.outcome, t.bcApp.desc0.crc32, Memory.readBytes t.flash 12 4)) =
    some (.fixed 0xCBF43926 true, 0xCBF43926, [0x26, 0x39, 0xF4, 0xCB]) := by decide +kernel

/-- V-FX-3. -/
theorem test_fixCrc_past_end : (next? idle (.operation 0x050100000426 [])).map
    (fun t => (t.outcome, t.bcApp, t.flash)) = some (.error (.storage .read), freshApp, []) := by decide +kernel

/-- 44_descriptor_validator.md R276. -/
theorem test_commit : (next? idle (.operation 0x060200000000 [])).map
    (fun t => (t.outcome, Memory.readBytes t.spi 52 4, Memory.readBytes t.spi 0x74 4)) =
    some (.committed true, [0xA6, 0x68, 0xF4, 0x17], [0xA6, 0x68, 0xF4, 0x17]) := by decide +kernel

/-- 40_crc_engine.md R150's example, V-CRC-16 and V-CRC-17. -/
theorem test_crcRegion : onWord digits 0x070000000009 = some (.crc 0xCBF43926) ∧
    onWord idle 0x070100000426 = some (.error (.storage .read)) ∧
    onWord State.reset 0x070000000000 = some (.error (.state .notLoaded)) := by decide +kernel

/-- V-CRC-12, V-CRC-13. -/
theorem test_crcBuf :
    (next? State.reset (.operation 0x080000000009 [0x31, 0x32, 0x33, 0x34, 0x35, 0x36, 0x37, 0x38, 0x39])).map
      State.outcome = some (.crc 0xCBF43926) ∧
    onWord State.reset 0x080000000000 = some (.crc 0) := by decide +kernel

/-- A buffer one byte short runs on one free value (log 17). -/
theorem test_crcBuf_short : (ran? (.crcBuf 2 [7]) State.reset).map State.freeCtr = some 1 := by decide +kernel

/-- V-SA-1, V-SA-4. -/
theorem test_setActive : (next? { idle with bcApp := { freshApp with active := .bank0 } }
      (.operation 0x090800000000 [])).map (fun t => (t.outcome, t.bcApp.active, t.flash)) =
    some (.proceed, .bank1, []) ∧
    onWord idle 0x090C00000000 = some (.error (.state .badOperation)) := by decide +kernel

/-- V-CRC-1, V-CRC-2, V-CRC-3. -/
theorem test_crc_micro :
    (ran? .crcInit State.reset).map State.crcAcc = some (some 0xFFFFFFFF) ∧
    (ran? (.crcUpdate 0x31) { State.reset with crcAcc := some 0xFFFFFFFF }).map State.crcAcc =
      some (some 0x1208C43E) ∧
    (ran? .crcFinal { State.reset with crcAcc := some 0x1208C43E }).map State.outcome =
      some (.crc 0x83DCEFB7) := by decide +kernel

/-- V-CRC-11. -/
theorem test_crc_special : crc32 dflt [0x9D, 0x0A, 0xD9, 0x6D] = 0 ∧
    crc32 dflt [0xC3, 0xD8, 0x24, 0x06] = 0xDEADBEEF := by decide +kernel

/-- V-REC-3 to V-REC-5. -/
theorem test_copyStatus : copyStatus dflt .app (List.replicate 40 0xFF) = .empty ∧
    copyStatus dflt .app (serialise dflt .app freshApp) = .valid ∧
    copyStatus dflt .app (List.replicate 40 0) = .invalid := by decide +kernel

/-! ## States that meet the hypotheses of the obligations

One theorem an obligation, each clause at a boundary of its range where it has one. The obligations without a
hypothesis (WordsOfTheSpec, Crc32Values, MicroOperationsComputeCrc32, CrcStreamingAndResidue, SessionReset)
need none. -/

theorem ran_isSome {i : Instr} {s : State} (h : (ran? i s).isSome = true) : ∃ t, exec i s = .next t := by
  unfold ran? at h
  cases hx : exec i s with
  | next t => exact ⟨t, rfl⟩
  | fault f => rw [hx] at h; cases h
  | refused r => rw [hx] at h; cases h

/-- The cells of a byte sequence at an address. -/
def cellsAt : Nat → List Byte → Memory
  | _, [] => []
  | a, b :: bs => if b = 0xFF then cellsAt (a + 1) bs else (a, b) :: cellsAt (a + 1) bs

/-- The application record of a fresh context in both copies (V-LD-2). -/
def persisted : State := { idle with flash := cellsAt 0 freshRecord ++ cellsAt 0x40 freshRecord }

/-- The application record in the primary copy alone (V-LD-3). -/
def primaryOnly : State := { idle with flash := cellsAt 0 freshRecord }

/-- The application record in the backup copy alone (V-LD-4). -/
def backupOnly : State := { idle with flash := cellsAt 0x40 freshRecord }

/-- Both application copies invalid. -/
def corrupted : State := { idle with flash := [(1, 0), (0x41, 0)] }

/-- A descriptor that leaves the address space. -/
def misplaced : State := { idle with bcApp := { freshApp with desc0 := ⟨0xFFFFFFF1, 0, 16, 1, 0, 0⟩ } }

def approm0 : List Byte := [0x61, 0x70, 0x70, 0x72, 0x6F, 0x6D, 0x30]

theorem witness_StepRunsDecodedInstruction :
    let e : Event := .frame [0, 7]
    let o : Event := .operation 0x010000000000 []
    { idle with inbox := [e] }.inbox = e :: [] ∧ decode idle.cfg e = .ok .debug ∧
    { idle with inbox := [o] }.inbox = o :: [] ∧ decode idle.cfg o = .ok .sessionReset := by decide +kernel

theorem witness_OtherEvents :
    { idle with inbox := [.frame [0]] }.inbox = .frame [0] :: [] ∧
    decode idle.cfg (.frame [0]) = .error (.frame .size) ∧
    { idle with inbox := [.takeFrame] }.inbox = .takeFrame :: [] ∧
    { idle with inbox := [.powerCycle] }.inbox = .powerCycle :: [] ∧ idle.inbox = [] := by decide +kernel

/-- The hypothesis of BadOperationsRefused on the word (30_encoding.md R126). -/
def badWord (w : BitVec 48) : Bool :=
  let code := (w.extractLsb' 40 8).toNat
  let sel := (w.extractLsb' 34 2).toNat
  decide (code = 0 ∨ 9 < code ∨ w.extractLsb' 36 4 ≠ 0 ∨ sel = 3 ∨ (code ≠ 9 ∧ sel ≠ 0) ∨
    (code ∈ [1, 8] ∧ w.getLsbD 33 = true) ∨
    (code ∈ [1, 2, 4, 6, 8, 9] ∧ w.getLsbD 32 = true) ∨
    (code ∈ [1, 2, 3, 4, 6, 9] ∧ w.extractLsb' 0 32 ≠ 0))

theorem witness_BadOperationsRefused :
    (∀ w : BitVec 48, { idle with inbox := [.operation w []] }.inbox = .operation w [] :: []) ∧
    badWord 0x000000000000 ∧ badWord 0x0A0000000000 ∧ badWord 0x021000000000 ∧ badWord 0x090C00000000 ∧
    badWord 0x010400000000 ∧ badWord 0x010200000000 ∧ badWord 0x080200000000 ∧ badWord 0x020100000000 ∧
    badWord 0x090100000000 ∧ badWord 0x010000000001 ∧ badWord 0x090080000000 ∧ ¬ badWord 0x090600000000 :=
  ⟨fun _ => rfl, by decide +kernel⟩

theorem witness_DecodeOfEncode :
    dflt.commandCodesOk ∧ (Instr.rrq 0xFFFFFFFF approm0).wf dflt ∧ (encode dflt (.rrq 0xFFFFFFFF approm0)).isSome ∧
    (Instr.data 0xFFFF (List.replicate 512 0)).wf dflt ∧
    (encode dflt (.data 0xFFFF (List.replicate 512 0))).isSome ∧
    (encode dflt (.setActive .aux .bank1)).isSome := by
  simp only [Instr.wf]
  decide +kernel

theorem witness_OperationWordsAreExact :
    decode dflt (.operation 0x0503FFFFFFFF []) = .ok (.fixCrc .aux .b1 0xFFFFFFFF) ∧
    decode dflt (.operation 0x080000000001 [9]) = .ok (.crcBuf 1 [9]) := by decide +kernel

theorem witness_IgnoredBytesHaveNoEffect :
    nameOk approm0 ∧ 7 + approm0.length + (List.replicate 502 (0 : Byte)).length ≤ 516 ∧
    3 + approm0.length + (List.replicate 506 (0 : Byte)).length ≤ 516 ∧
    4 + (List.replicate 124 (0 : Byte)).length ≤ 128 ∧
    (Instr.cmdBoot, Cmd.boot) ∈ Instr.terminal ∧ dflt.commandCodesOk ∧
    4 + (List.replicate 512 (0 : Byte)).length ≤ 516 ∧ 8 + (List.replicate 508 (0 : Byte)).length ≤ 516 ∧
    2 + (List.replicate 514 (0 : Byte)).length ≤ 516 := by decide +kernel

theorem witness_NameExtraction :
    (3 : Nat) ≤ [(1 : Byte), 2, 0].length ∧ cstr [1, 2, 0] 0 8 3 = some [1, 2] ∧ cstr [1, 2, 0] 0 8 2 = none := by
  decide +kernel

/-- A state whose FB holds some bytes and whose FLEN is given. -/
def presented (s : State) (bytes : List Byte) (len : Nat) : State :=
  { s with fb := bytes ++ List.replicate (516 - bytes.length) 0, flen := len, framePresented := true }

theorem witness_FrontEndOrder :
    (∀ s ∈ [presented idle [1] 1, presented idle [0, 7] 517, presented idle [1, 0] 2, presented idle [0, 0] 2,
        presented idle [0, 8] 516, presented reading [0, 6] 2, presented idle [0, 1] 6, presented idle [0, 2] 2,
        presented idle [0, 3] 3, presented idle [0, 4] 5, presented idle [0, 5] 129, presented idle [0, 6] 3],
      s.framePresented = true ∧ s.sessionOpen = true ∧ 0 < s.flen ∧ s.cfg.errorReply = .none) ∧
    (let s := presented idle ([0, 1, 0, 0, 0, 0] ++ List.replicate 8 0x61) 15
     s.flen ≠ 1 ∧ s.flen ≤ 516 ∧ s.fb.getD 0 0 = 0 ∧ s.fb.getD 1 0 = 1 ∧ s.dir ≠ .read ∧ 7 ≤ s.flen ∧
     cstr s.fb 6 8 s.flen = none) ∧
    (let s := presented idle [0, 2, 0x61] 3
     s.fb.getD 0 0 = 0 ∧ s.fb.getD 1 0 = 2 ∧ s.dir ≠ .read ∧ 3 ≤ s.flen ∧ cstr s.fb 2 8 s.flen = none) := by
  decide +kernel

theorem witness_CrcInitAndUpdate : { idle with crcAcc := some 0x80000000 }.crcAcc = some 0x80000000 := by
  decide +kernel

theorem witness_CrcFinalAndNoValue :
    { idle with crcAcc := some 1 }.crcAcc = some 1 ∧ idle.crcAcc = none := by decide +kernel

theorem witness_CrcFormsAgree : dflt.crcRefIn = true ∧ dflt.crcRefOut = true := by decide +kernel

theorem witness_CrcBuf : ([] : List Byte).length = (0 : Word).toNat ∧ [(1 : Byte)].length = (1 : Word).toNat ∧
    idle.cfg = Config.default := by decide +kernel

theorem witness_CrcRegion : digits.loaded .app = true ∧ digits.storageAnswers ∧
    (digits.desc .app .b0).startAddr.toNat + (digits.desc .app .b0).partitionSize.toNat ≤ 2 ^ 32 ∧
    (16 : Word).toNat ≤ (digits.desc .app .b0).partitionSize.toNat ∧
    ¬ (17 : Word).toNat ≤ (digits.desc .app .b0).partitionSize.toNat ∧ misplaced.loaded .app = true ∧
    2 ^ 32 < (misplaced.desc .app .b0).startAddr.toNat + (misplaced.desc .app .b0).partitionSize.toNat := by
  decide +kernel

theorem witness_DebugFrame : idle.sessionOpen = true ∧ reading.sessionOpen = true := by decide +kernel

theorem witness_TerminalCommands :
    writing.reaches .command ∧ (Instr.cmdSetBank1, Cmd.setBank1) ∈ Instr.terminal := by decide +kernel

theorem witness_CommandFrontEnd :
    idle.reaches .command ∧ idle.cfg.commandCodesOk ∧ idle.cfg.errorReply = .none ∧ (0 : Half) < idle.cfg.cmdMin ∧
    idle.cfg.cmdMax < (14 : Half) ∧ (12 : Half) = idle.cfg.cmdCodes.of .setBank1 ∧
    (13 : Half) = idle.cfg.cmdCodes.crc ∧ [(0 : Byte), 0, 0].length < 4 ∧ 4 ≤ [(0 : Byte), 0, 0, 0].length := by
  decide +kernel

theorem witness_ErrorFrame : idle.sessionOpen = true ∧ idle.cfg.errorReply = .none ∧ (0 : Half) < idle.cfg.errMin ∧
    idle.cfg.errMax < (8 : Half) ∧ ¬ ((7 : Half) < idle.cfg.errMin ∨ idle.cfg.errMax < (7 : Half)) ∧
    idle.dir ≠ .read ∧ reading.sessionOpen = true ∧ reading.dir = .read := by decide +kernel

theorem witness_AckFrame : idle.sessionOpen = true ∧ idle.cfg.errorReply = .none ∧ idle.tc.inProgress = false ∧
    writing.sessionOpen = true ∧ writing.tc.inProgress = true ∧ (1 : Half) ≠ writing.tc.lastBlock ∧
    (0 : Half) = writing.tc.lastBlock ∧ writing.dir ≠ .read := by decide +kernel

theorem witness_DirectionGate : reading.sessionOpen = true ∧ reading.cfg.errorReply = .none ∧ reading.dir = .read ∧
    ∃ t, exec .debug reading = .next t :=
  ⟨rfl, rfl, rfl, ran_isSome (by decide +kernel)⟩

theorem witness_FrameIn : State.reset.framePresented = false ∧ (presented idle [] 0).framePresented = true ∧
    (presented idle [] 0).flen = 0 ∧ State.reset.sessionOpen = false ∧
    0 < (presented State.reset [0, 7] 2).flen ∧ Instr.isFrame .debug = true ∧
    0 < (presented idle [0, 7] 2).flen ∧ (presented idle [0, 7] 2).sessionOpen = true ∧
    decodeFrame (presented idle [0, 7] 2).fb 2 = .ok .debug ∧
    decodeFrame (presented idle [0, 5, 0, 7] 4).fb 4 = .ok (.error 7) ∧
    ¬ ((7 : Half) < idle.cfg.errMin ∨ idle.cfg.errMax < (7 : Half)) ∧ idle.dir ≠ .read := by decide +kernel

theorem witness_EmptyRead : State.reset.sessionOpen = false ∧ idle.sessionOpen = true ∧ idle.emptyReads = false ∧
    { idle with emptyReads := true }.emptyReads = true ∧ idle.cfg.errorReply = .none := by decide +kernel

theorem witness_RequestRejections : reading.sessionOpen = true ∧ reading.dir = .read ∧
    idle.sessionOpen = true ∧ idle.cfg.errorReply = .none ∧ idle.dir ≠ .read ∧
    targetNamed idle.cfg [0x61] = none ∧ targetNamed idle.cfg approm0 = some .appBank0 ∧
    writing.tc.inProgress = true ∧ writing.dir ≠ .read ∧ idle.tc.inProgress = false ∧
    { idle with loadedApp := false }.loaded .app = false := by decide +kernel

theorem witness_ReadRequest : digits.reaches .readRequest ∧ digits.requests approm0 .appBank0 ∧
    digits.storageAnswers ∧ digits.nextTxFails = false ∧ digits.cfg.errorReply = .none ∧
    (digits.desc .app .b0).startAddr.toNat + (digits.desc .app .b0).partitionSize.toNat ≤ 2 ^ 32 ∧
    min 512 (16 : Word).toNat ≤ (digits.desc .app .b0).partitionSize.toNat ∧
    (digits.desc .app .b0).partitionSize.toNat < min 512 (17 : Word).toNat ∧
    misplaced.requests approm0 .appBank0 ∧
    2 ^ 32 < (misplaced.desc .app .b0).startAddr.toNat + (misplaced.desc .app .b0).partitionSize.toNat := by
  decide +kernel

theorem witness_WriteRequest : digits.reaches .writeRequest ∧ digits.requests approm0 .appBank0 ∧
    digits.storageAnswers ∧ digits.nextTxFails = false ∧ digits.cfg.errorReply = .none ∧
    Memory.wf (digits.store (digits.cfg.dev .app)) ∧
    (requestArea digits approm0 .appBank0).start.toNat + (requestArea digits approm0 .appBank0).size.toNat ≤
      2 ^ 32 ∧
    (requestArea digits approm0 .appBank0).covers .flash 0x100F ∧
    ¬ (requestArea digits approm0 .appBank0).covers .flash 0x1010 ∧
    2 ^ 32 < (requestArea misplaced approm0 .appBank0).start.toNat +
      (requestArea misplaced approm0 .appBank0).size.toNat := by decide +kernel

/-- A write transfer whose bank has one byte left. -/
def nearlyFull : State := { writing with sbTx := { writing.sbTx with cur := 1060 } }

theorem witness_DataAccepted : nearlyFull.reaches .data ∧ nearlyFull.tc.inProgress = true ∧
    (1 : Half).toNat = nearlyFull.tc.lastBlock.toNat + 1 ∧ nearlyFull.sbTx.bound = true ∧
    nearlyFull.sbTx.area.start.toNat + nearlyFull.sbTx.area.size.toNat ≤ 2 ^ 32 ∧
    nearlyFull.sbTx.cur.toNat + [(0x55 : Byte)].length ≤ nearlyFull.sbTx.area.size.toNat ∧
    nearlyFull.storageAnswers ∧ nearlyFull.nextTxFails = false ∧
    Memory.wf (nearlyFull.store nearlyFull.sbTx.area.dev) ∧
    nearlyFull.byte .flash (nearlyFull.sbTx.cursor + 0) = nearlyFull.cfg.erasedByte := by decide +kernel

theorem witness_DataRejected : idle.reaches .data ∧ idle.cfg.errorReply = .none ∧ idle.tc.inProgress = false ∧
    writing.reaches .data ∧ writing.tc.inProgress = true ∧ (2 : Half).toNat ≠ writing.tc.lastBlock.toNat + 1 ∧
    nearlyFull.reaches .data ∧ (1 : Half).toNat = nearlyFull.tc.lastBlock.toNat + 1 ∧ nearlyFull.storageAnswers ∧
    nearlyFull.sbTx.area.size.toNat < nearlyFull.sbTx.cur.toNat + [(0x55 : Byte), 0x55].length := by decide +kernel

theorem witness_UnsentAck :
    let s := { nearlyFull with txFaults := [true] }
    s.reaches .data ∧ s.tc.inProgress = true ∧ (1 : Half).toNat = s.tc.lastBlock.toNat + 1 ∧ s.sbTx.bound = true ∧
    s.sbTx.area.start.toNat + s.sbTx.area.size.toNat ≤ 2 ^ 32 ∧
    s.sbTx.cur.toNat + [(0x55 : Byte)].length ≤ s.sbTx.area.size.toNat ∧ s.storageAnswers ∧ s.nextTxFails = true ∧
    s.cfg.errorReply = .none ∧ Memory.wf (s.store s.sbTx.area.dev) := by decide +kernel

theorem witness_ReadBackBlock :
    (∀ s ∈ [reading, { reading with tc := { reading.tc with expectedSize := 0xFFFFFFFF }, rbOff := 0x02000000 },
        { reading with tc := { reading.tc with expectedSize := 0xFFFFFFFF }, rbOff := 0x01FFFE00 },
        { reading with tc := { reading.tc with expectedSize := 0x801 }, rbOff := 0x800 }],
      s.sessionOpen = true ∧ s.tc.inProgress = true ∧ s.dir = .read ∧ 0 = s.tc.lastBlock ∧
      s.rbOff.toNat < s.tc.expectedSize.toNat ∧ s.cfg.errorReply = .none ∧ s.sbTx.bound = true ∧
      s.sbTx.area.start.toNat + s.sbTx.area.size.toNat ≤ 2 ^ 32 ∧ s.storageAnswers ∧ s.nextTxFails = false) ∧
    0xFFFF < 0x02000000 / 512 ∧ ¬ 0xFFFF < 0x01FFFE00 / 512 ∧
    reading.rbOff.toNat + min 512 (reading.tc.expectedSize.toNat - reading.rbOff.toNat) ≤
      reading.sbTx.area.size.toNat := by decide +kernel

theorem witness_ReadBackEnd : readDone.sessionOpen = true ∧ readDone.tc.inProgress = true ∧ readDone.dir = .read ∧
    1 = readDone.tc.lastBlock ∧ readDone.tc.expectedSize.toNat ≤ readDone.rbOff.toNat ∧
    readDone.tc.targetId = some .appBank0 ∧ readDone.nextTxFails = false := by decide +kernel

theorem witness_CrcCommandMatch : uploading.reaches .command ∧ uploading.tc.inProgress = true ∧
    uploading.tc.targetId = some .auxBank1 ∧ uploading.loaded .aux = true ∧ uploading.sbTx.bound = true ∧
    uploading.sbTx.area.start.toNat + uploading.sbTx.area.size.toNat ≤ 2 ^ 32 ∧ uploading.storageAnswers ∧
    uploading.sbTx.cur.toNat ≤ uploading.sbTx.area.size.toNat ∧ uploading.cfg.auxSpanIsBytesWritten = true ∧
    crc32 uploading.cfg (Memory.readBytes (uploading.store uploading.sbTx.area.dev)
      uploading.sbTx.area.start.toNat uploading.sbTx.cur.toNat) = 0 := by decide +kernel

/-- An upload whose area is shorter than its cursor says (no run reaches it). -/
def overrun : State := { uploading with sbTx := { uploading.sbTx with area := { uploading.sbTx.area with size := 3 } } }

theorem witness_CrcCommandRefused : idle.reaches .command ∧ idle.cfg.errorReply = .none ∧ idle.tc.inProgress = false ∧
    (let s := { uploading with tc := { uploading.tc with targetId := none } }
     s.reaches .command ∧ s.cfg.errorReply = .none ∧ s.tc.inProgress = true ∧ s.tc.targetId = none) ∧
    (let s := { uploading with loadedAux := false }
     s.reaches .command ∧ s.cfg.errorReply = .none ∧ s.tc.inProgress = true ∧ s.tc.targetId = some .auxBank1 ∧
     s.loaded .aux = false) ∧
    overrun.reaches .command ∧ overrun.tc.inProgress = true ∧ overrun.tc.targetId = some .auxBank1 ∧
    overrun.loaded .aux = true ∧ overrun.sbTx.bound = true ∧ overrun.sbTx.area.start.toNat + overrun.sbTx.area.size.toNat ≤ 2 ^ 32 ∧
    overrun.storageAnswers ∧ overrun.sbTx.area.size.toNat < overrun.sbTx.cur.toNat ∧
    crc32 uploading.cfg (Memory.readBytes (uploading.store uploading.sbTx.area.dev)
      uploading.sbTx.area.start.toNat uploading.sbTx.cur.toNat) ≠ 1 := by decide +kernel

theorem witness_NotLoaded : State.reset.loaded .aux = false ∧
    (let s := { idle with loadedApp := false }
     s.loaded .app = false ∧ s.reaches .writeRequest ∧ s.cfg.errorReply = .none ∧
     targetNamed s.cfg approm0 = some .appBank0 ∧ Target.appBank0.cat = .app ∧ s.tc.inProgress = false) := by
  decide +kernel

theorem witness_SetActive : idle.loaded .app = true ∧ idle.loaded .aux = true := by decide +kernel

theorem witness_Validate : idle.loaded .app = true ∧ (∀ f ∈ idle.storageFates, f = .completes) ∧
    (idle.desc .app .b0).crc32 = 0xDEADBEEF ∧ misplaced.loaded .app = true ∧
    (misplaced.desc .app .b0).crc32 ≠ 0xDEADBEEF ∧ (∀ f ∈ misplaced.storageFates, f = .completes) := by
  decide +kernel

/-- An auxiliary bank whose span has CRC 0 and whose descriptor says otherwise (V-VAL-6). -/
def zeroCrc : State := { uploading with bcAux := { freshAux with desc1 := ⟨0x2000, 4, 4096, 0x5CBC0074, 4, 0⟩ } }

/-- The MemInit, the first MemRead and the retry of `zeroCrc` failing, each reached, and LOAD's last read. -/
theorem witness_StorageFailureInOperations :
    (∀ k ∈ [0, 1, 2],
      let s := { zeroCrc with storageFates := List.replicate k .completes ++ [.fails] }
      s.storageFates = List.replicate k .completes ++ .fails :: [] ∧ s.loaded .aux = true ∧
      (s.desc .aux .b1).crc32 ≠ 0xDEADBEEF ∧ (s.desc .aux .b1).crc32 ≠ 0 ∧
      (ran? (.validate .aux .b1) s).map (fun t => (t.outcome, t.storageFates)) = some (.status .invalid, [])) ∧
    crc32 dflt (glitched (Memory.readBytes (zeroCrc.store .spi) 0x2000 4) (zeroCrc.readGlitches.headD [])) = 0 ∧
    { idle with storageFates := [.completes, .completes, .completes, .fails] }.storageFates =
      List.replicate 3 .completes ++ .fails :: [] := by decide +kernel

theorem witness_Commit : idle.cfg.wf ∧ idle.loaded .app = true ∧ idle.storageAnswers ∧
    Memory.wf (idle.store (idle.cfg.dev .app)) := by decide +kernel

theorem witness_Swap : persisted.cfg.wf ∧ persisted.loaded .app = true ∧ persisted.storageAnswers ∧
    Memory.wf (persisted.store (persisted.cfg.dev .app)) := by decide +kernel

theorem witness_FixCrc : digits.cfg.wf ∧ digits.loaded .app = true ∧ digits.storageAnswers ∧
    Memory.wf (digits.store (digits.cfg.dev .app)) ∧
    (16 : Word).toNat ≤ (digits.desc .app .b0).partitionSize.toNat ∧
    ¬ (17 : Word).toNat ≤ (digits.desc .app .b0).partitionSize.toNat := by decide +kernel

theorem witness_FailedPrimaryKeepsBackup :
    let s := { persisted with storageFates := [.completes, .completes, .completes, .completes, .fails] }
    s.cfg.wf ∧ s.loaded .app = true ∧ Memory.wf (s.store (s.cfg.dev .app)) ∧
    s.storageFates = List.replicate 4 CallFate.completes ++ CallFate.fails :: [] := by decide +kernel

theorem witness_LoadTakesAValidCopy : idle.cfg.wf ∧ persisted.storageAnswers ∧
    Memory.wf (persisted.store .flash) ∧ Memory.wf (primaryOnly.store .flash) ∧ Memory.wf (backupOnly.store .flash) ∧
    copyStatus dflt .app (persisted.record .app .primary) = .valid ∧
    persisted.record .app .primary = persisted.record .app .backup ∧
    copyStatus dflt .app (primaryOnly.record .app .primary) = .valid ∧
    primaryOnly.record .app .primary ≠ primaryOnly.record .app .backup ∧
    copyStatus dflt .app (backupOnly.record .app .primary) ≠ .valid ∧
    copyStatus dflt .app (backupOnly.record .app .backup) = .valid := by decide +kernel

theorem witness_LoadFresh : idle.cfg.wf ∧ idle.storageAnswers ∧ Memory.wf (idle.store .flash) ∧
    copyStatus dflt .app (idle.record .app .primary) = .empty ∧
    copyStatus dflt .app (idle.record .app .backup) ≠ .valid := by decide +kernel

theorem witness_LoadCorrupt : corrupted.cfg.wf ∧ corrupted.storageAnswers ∧ Memory.wf (corrupted.store .flash) ∧
    copyStatus dflt .app (corrupted.record .app .primary) = .invalid ∧
    copyStatus dflt .app (corrupted.record .app .backup) = .invalid := by decide +kernel

theorem witness_CommitThenLoad : idle.cfg.wf ∧ idle.loaded .app = true ∧ idle.storageAnswers ∧
    Memory.wf (idle.store .flash) ∧
    ((idle.desc .app .b0).uploadedSize = 0 ∧ (idle.desc .app .b0).uploadedCrc = 0) ∧
    ((idle.desc .app .b1).uploadedSize = 0 ∧ (idle.desc .app .b1).uploadedCrc = 0) ∧
    (serialise idle.cfg .app (idle.bc .app)).all (· == idle.cfg.erasedByte) = false ∧
    ∃ t, exec (.commit .app) idle = .next t :=
  ⟨by decide +kernel, rfl, by decide +kernel, by decide +kernel, by decide +kernel, by decide +kernel,
    by decide +kernel, ran_isSome (by decide +kernel)⟩

theorem witness_RecordLayoutAndRoundTrip : dflt.activeEncOk ∧ dflt.persistEndian = .little ∧ dflt.activeBytes = 4 ∧
    ((freshApp.desc .b0).uploadedSize = 0 ∧ (freshApp.desc .b0).uploadedCrc = 0) ∧
    ((freshApp.desc .b1).uploadedSize = 0 ∧ (freshApp.desc .b1).uploadedCrc = 0) := by decide +kernel

/-- Power lost before the first storage call on the backup of a SWAP. -/
def interrupted : State := { persisted with storageFates := List.replicate 5 .completes ++ [.lostBefore] }

theorem witness_InterruptedSwapIsAtomic : interrupted.cfg.wf ∧ interrupted.loaded .app = true ∧
    interrupted.readGlitches = [] ∧ Memory.wf (interrupted.store .flash) ∧
    (interrupted.bc .app).ownCrc = crc32 dflt (arrayBytes dflt .app (interrupted.bc .app)) ∧
    (serialise dflt .app freshApp).all (· == dflt.erasedByte) = false ∧
    (serialise dflt .app { freshApp with active := toggled freshApp.active }).all (· == dflt.erasedByte) = false ∧
    (∀ which ∈ [Copy.primary, .backup], interrupted.record .app which = serialise dflt .app freshApp) ∧
    interrupted.storageFates = List.replicate 5 .completes ++ [.lostBefore] ∧
    (ran? (.swap .app) interrupted).map (fun t => (t.record .app .primary, t.record .app .backup)) =
      some (serialise dflt .app { freshApp with active := toggled freshApp.active },
        serialise dflt .app freshApp) := by decide +kernel

theorem witness_ResetState : { writing with inbox := [.powerCycle] }.inbox = .powerCycle :: [] := by decide +kernel

/-- A block is built from the default record whatever its devices hold, and none from a record that breaks R10. -/
theorem witness_InvAtReset : (State.build? dflt [(1, 0)] []).isSome = true ∧ Memory.wf [(1, 0)] ∧ Memory.wf [] ∧
    (State.build? { dflt with appCtxBackup := 0x41 } [] []).isNone = true := by decide +kernel

theorem idle_inv : Inv idle where
  configuration := by decide +kernel
  flashCanonical := by decide +kernel
  spiCanonical := by decide +kernel
  frameBuffer := by decide +kernel
  direction := by decide +kernel
  emptyContext := fun _ => rfl
  target := fun h => absurd h (by decide +kernel)
  transferHandle := rfl
  transferArea := fun h => absurd h (by decide +kernel)
  transferCursor := fun _ => rfl
  validatorHandle := by decide +kernel
  offsetAtRest := fun _ => rfl
  offset := fun h => absurd h (by decide +kernel)
  finalising := fun h => absurd h (by decide +kernel)
  written := fun h => absurd h (by decide +kernel)
  emptyReads := fun h => absurd h (by decide +kernel)
  forced := rfl
  noAccumulator := rfl
  appFields := fun b => by cases b <;> decide +kernel

theorem reading_inv (events : List Event) : Inv { reading with inbox := events } where
  configuration := Config.default_buildable
  flashCanonical := by show Memory.wf []; decide
  spiCanonical := by show Memory.wf []; decide
  frameBuffer := by show (List.replicate maxFrame (0#8)).length = 516; decide +kernel
  direction := by show Dir.read = Dir.noDir ↔ true = false; decide
  emptyContext := fun h => by cases h
  target := fun _ => ⟨.appBank0, rfl, rfl⟩
  transferHandle := rfl
  transferArea := fun _ => by
    show reading.sbTx.area.fits = true ∧ reading.sbTx.cur.toNat ≤ reading.sbTx.area.size.toNat
    decide +kernel
  transferCursor := fun h => by cases h
  validatorHandle := ⟨rfl, rfl⟩
  offsetAtRest := fun h => absurd rfl h
  offset := fun _ => by
    show 0 < (516 : Word).toNat ∧ reading.sbTx.cur = 0 ∧
      (512 : Word).toNat = min (512 * ((0 : Half).toNat + 1)) (516 : Word).toNat ∧
      (512 : Word).toNat ≤ reading.sbTx.area.size.toNat
    decide +kernel
  finalising := fun h => by cases h
  written := fun h => by cases h
  emptyReads := fun h => by cases h
  forced := rfl
  noAccumulator := rfl
  appFields := fun b => by cases b <;> exact ⟨rfl, rfl⟩

theorem witness_EveryStepKeepsInv :
    Inv { reading with inbox := [.frame [0, 4, 0, 0]] } ∧ (next? reading (.frame [0, 4, 0, 0])).isSome = true :=
  ⟨reading_inv _, by decide +kernel⟩

theorem witness_InvStepsComplete : Inv { reading with inbox := [.operation 0x080000000001 []] } := reading_inv _

/-- A Data frame and a WriteRequest that run, and a Data frame inside whose MemWrite power is lost. -/
theorem witness_FrameLimits : (Instr.data 1 [0xAA]).isFrame = true ∧ writing.powerHolds ∧ Memory.wf writing.flash ∧
    Memory.wf writing.spi ∧ (Instr.wrq approm0).isFrame = true ∧ digits.powerHolds ∧ Memory.wf digits.flash ∧
    Memory.wf digits.spi ∧
    (∃ t, exec (.data 1 [0xAA]) writing = .next t) ∧ (∃ t, exec (.wrq approm0) digits = .next t) ∧
    ∃ t, exec (.data 1 []) { writing with storageFates := [.lostDuring] } = .next t :=
  ⟨rfl, by decide +kernel, by decide +kernel, by decide +kernel, rfl, by decide +kernel, by decide +kernel,
    by decide +kernel, ran_isSome (by decide +kernel), ran_isSome (by decide +kernel), ran_isSome (by decide +kernel)⟩

theorem witness_OperationLimits : (Instr.load .app).isOperation = true ∧ Memory.wf corrupted.flash ∧
    Memory.wf corrupted.spi ∧ corrupted.powerHolds ∧ ∃ t, exec (.load .app) corrupted = .next t :=
  ⟨rfl, by decide +kernel, by decide +kernel, by decide +kernel, ran_isSome (by decide +kernel)⟩

theorem witness_ErrorClasses : writing.sessionOpen = true ∧ writing.powerHolds ∧ writing.cfg.errorReply = .none ∧
    (ran? (.cmd 14 []) writing).map State.outcome = some (.error (.framing .commandCode)) ∧
    (ran? (.wrq approm0) writing).map State.outcome = some (.error (.state .busy)) ∧
    (ran? (.data 2 []) writing).map State.outcome = some (.error (.sequence .blockMismatch)) ∧
    (ran? (.cmdCrc 1) uploading).map State.outcome = some (.error (.crcMismatch 0 1)) ∧
    (ran? (.data 1 [1, 2]) nearlyFull).map State.outcome = some (.error (.storage .write)) ∧
    (ran? .empty { writing with emptyReads := true }).map State.outcome = some (.error (.transport .emptyRead)) := by
  decide +kernel

theorem witness_PhaseTransitions : Inv idle ∧ idle.powerHolds ∧
    (ran? (.wrq approm0) idle).map (fun t => (t.outcome, phase t)) = some (.proceed, .transferring) ∧
    (ran? .sessionReset idle).map phase = some .awaitingRequest :=
  ⟨idle_inv, by decide +kernel, by decide +kernel, by decide +kernel⟩

theorem witness_EmittedFrames : writing.powerHolds ∧ writing.sessionOpen = true ∧ writing.txFaults = [] ∧
    (ran? (.data 1 []) writing).map State.txq = some [[0, 4, 0, 1]] ∧
    (ran? (.data 2 []) { writing with cfg := { dflt with errorReply := .always } }).map State.txq =
      some [[0, 5, 0, 2, 0]] ∧
    (ran? .frameIn (presented { idle with cfg := { dflt with errorReply := .always } } [1, 2] 2)).map
      (fun t => (t.outcome, t.txq)) = some (.error (.framing .sentinel), [[0, 5, 0, 1, 0]]) := by decide +kernel

end Sys2Proof.Tests
end

section
/-! The invariant at reset and of every block that is built (spec/00_scope.md R10, spec/10_state.md R45). -/

namespace Sys2Proof.Machine

/-! ### The reset values satisfy the invariant -/

/-- A power-up gives every register its reset value: of the invariant only what it says about the record and the
devices is left to ask. -/
theorem State.powerUp_inv {s : State} (record : s.cfg.buildable) (flash : Memory.wf s.flash)
    (spi : Memory.wf s.spi) : Inv s.powerUp where
  configuration := record
  flashCanonical := flash
  spiCanonical := spi
  frameBuffer := by rw [State.powerUp_fb, List.length_replicate, maxFrame]
  direction := by simp [TransferContext.blank]
  emptyContext := fun _ => State.powerUp_tc s
  target := by simp [TransferContext.blank]
  transferHandle := by simp [Handle.closed, TransferContext.blank]
  transferArea := by simp [Handle.closed]
  transferCursor := by simp [Handle.closed]
  validatorHandle := by simp [Handle.closed]
  offsetAtRest := fun _ => State.powerUp_rbOff s
  offset := by simp
  finalising := by simp [TransferContext.blank]
  written := by simp
  emptyReads := by simp
  forced := by simp
  noAccumulator := State.powerUp_crcAcc s
  appFields := fun b => by cases b <;> exact ⟨rfl, rfl⟩

/-- The reset values and empty tapes are what a power-up leaves of them. -/
theorem State.powerUp_resetWith (cfg : Config) (flash spi : Memory) :
    (State.resetWith cfg flash spi).powerUp = State.resetWith cfg flash spi := rfl

theorem State.resetWith_inv {cfg : Config} {flash spi : Memory} (record : cfg.buildable)
    (hflash : Memory.wf flash) (hspi : Memory.wf spi) : Inv (State.resetWith cfg flash spi) := by
  rw [← State.powerUp_resetWith]
  exact State.powerUp_inv record hflash hspi

/-! ### Which records a block is built from -/

theorem State.exists_build?_iff {cfg : Config} {flash spi : Memory} :
    (∃ s, State.build? cfg flash spi = some s) ↔ cfg.buildable := by
  simp only [State.build?_eq_some, exists_and_left, exists_eq, and_true]

/-- `State.reset` is built from the default record with devices that list nothing (log 1, 7). -/
theorem State.build?_default : State.build? Config.default [] [] = some State.reset :=
  State.build?_eq_some.mpr ⟨Config.default_buildable, State.build_eq ..⟩

/-- Settles O53: the check passes exactly the records of R10, and what it builds holds the reset values. -/
theorem invAtReset : Obligations.InvAtReset := by
  refine ⟨fun cfg flash spi => ⟨State.exists_build?_iff, fun s built hflash hspi => ?_⟩,
    State.build?_default, ?_⟩
  · obtain ⟨record, rfl⟩ := State.build?_eq_some.mp built
    exact ⟨State.resetWith_inv record hflash hspi, rfl, rfl, rfl⟩
  · have emptyDevice : Memory.wf [] := by decide
    exact State.resetWith_inv Config.default_buildable emptyDevice emptyDevice

end Sys2Proof.Machine
end

section
/-! What a step does on each event (spec/10_state.md R21, R23, R24, R45; spec/43_session_driver.md R235): one
equation an event, which every statement about `step` goes through. -/

namespace Sys2Proof.Machine

section StepOnEvent
variable {s : State} {rest : List Event}

theorem step_frame {bytes : List Byte} {i : Instr} (front : s.inbox = .frame bytes :: rest)
    (row : decode s.cfg (.frame bytes) = .ok i) : step s = exec i (present bytes { s with inbox := rest }) := by
  simp only [step, fetch, front, row]

/-- A frame without fields runs the bare FRAME_IN, which reports the error (43_session_driver.md R230). -/
theorem step_malformed {bytes : List Byte} {x : Reject} (front : s.inbox = .frame bytes :: rest)
    (row : decode s.cfg (.frame bytes) = .error x) :
    step s = exec .frameIn (present bytes { s with inbox := rest }) := by
  simp only [step, fetch, front, row]

theorem step_operation {w : BitVec 48} {buffer : List Byte} {i : Instr}
    (front : s.inbox = .operation w buffer :: rest) (row : decode s.cfg (.operation w buffer) = .ok i) :
    step s = exec i { s with inbox := rest } := by
  simp only [step, fetch, front, row]

theorem step_refusedOperation {w : BitVec 48} {buffer : List Byte} {x : Reject}
    (front : s.inbox = .operation w buffer :: rest) (row : decode s.cfg (.operation w buffer) = .error x) :
    step s = .next (refuseOperation { s with inbox := rest }) := by
  simp only [step, fetch, front, row]

theorem step_takeFrame (front : s.inbox = .takeFrame :: rest) :
    step s = .next (takeFront { s with inbox := rest }) := by
  simp only [step, fetch, front]

theorem step_powerCycle (front : s.inbox = .powerCycle :: rest) :
    step s = .next ({ s with inbox := rest } : State).powerUp := by
  simp only [step, fetch, front]

theorem step_idle (front : s.inbox = []) : step s = .next s := by
  simp only [step, fetch, front]

end StepOnEvent

/-- Settles O1: a frame stands in FB and FLEN when its row runs, and an operation's row runs as it is. -/
theorem stepRunsDecodedInstruction : Obligations.StepRunsDecodedInstruction := by
  intro s e rest i front row
  constructor
  · rintro bytes rfl
    exact step_frame front row
  · rintro w buffer rfl
    exact step_operation front row

/-- Settles O2: the four events that decode to no instruction. -/
theorem otherEvents : Obligations.OtherEvents := by
  intro s rest
  exact ⟨fun _ _ front row => step_malformed front row, step_takeFrame, step_powerCycle, step_idle⟩

/-- Settles O52: a reset between two steps and `State.reset` both hold the values of `State.resetWith`. -/
theorem resetState : Obligations.ResetState := by
  intro s rest front
  refine ⟨_, step_powerCycle front, rfl, fun d a => by cases d <;> rfl, ?_⟩
  have closed : Handle.closed.isClosed := ⟨rfl, rfl⟩
  rintro u (rfl | rfl) <;>
    exact ⟨rfl, rfl, rfl, rfl, rfl, rfl, rfl, rfl, rfl, rfl, rfl, rfl, closed, closed, rfl, rfl, rfl⟩

end Sys2Proof.Machine
end

section
/-! The rows of a frame (spec/30_encoding.md R118; spec/43_session_driver.md R230): the step of the row a frame
decodes to is the step of the frame's kind rule, and FRAME_IN is that step on FB and FLEN. -/

namespace Sys2Proof.Machine

/-! ### The Command front end -/

/-- The command a code selects has that code (42_command_dispatch.md R200). -/
theorem code_of_commandOf {cfg : Config} {code : Half} {k : Cmd} (h : commandOf cfg code = some k) :
    cfg.cmdCodes.of k = code := by
  unfold commandOf at h
  split at h
  · cases h
  · simpa using List.find?_some h

section CommandRule
variable {s : State} {code : Half} {tail : List Byte}

theorem run_commandRule_none (h : commandOf s.cfg code = none) :
    commandRule code tail s = .error (.raised (.framing .commandCode)) s := by
  simp [commandRule, run_bind, h]

theorem run_commandRule_crc (h : commandOf s.cfg code = some .crc) :
    commandRule code tail s =
      if 4 ≤ tail.length then crcCommandRule (be32 tail 0) s else .error (.raised (.framing .size)) s := by
  simp only [commandRule, run_bind, run_get, h, run_require]
  split <;> split <;> simp_all

theorem run_commandRule_terminal {k : Cmd} (h : commandOf s.cfg code = some k) (hk : k ≠ .crc) :
    commandRule code tail s = terminalRule code s := by
  simp only [commandRule, run_bind, run_get, h]

end CommandRule

/-! ### The step of a row and the rule of its frame -/

/-- A frame's step runs its rule on one state only. -/
theorem frameStep_congr {x y : Act StepOutcome} {s : State} (h : x s.clearEmptyReads = y s.clearEmptyReads) :
    frameStep x s = frameStep y s := by
  simp only [frameStep, h]

theorem gate_bind_congr {k : Kind} {x y : Act StepOutcome} {s : State} (h : x s = y s) :
    (do gate k; x : Act StepOutcome) s = (do gate k; y : Act StepOutcome) s := by
  by_cases stopped : s.dir = .read ∧ Kind.gated k = true
  · simp only [run_bind, run_gate, if_pos stopped]
  · simp only [run_bind, run_gate, if_neg stopped, h]

/-- A rule behind a gate that lets the frame pass (41_frame_parser.md R164). -/
theorem run_gate_bind {k : Kind} {s : State} (h : ¬ (s.dir = .read ∧ Kind.gated k = true)) (x : Act StepOutcome) :
    (do gate k; x : Act StepOutcome) s = x s := by
  simp only [run_bind, run_gate, if_neg h]

/-- A terminal row is the Command frame with its code (42_command_dispatch.md R201). -/
theorem terminalStep_eq_frameStep {s : State} {code : Half} {k : Cmd} (tail : List Byte)
    (h : commandOf s.cfg code = some k) (hk : k ≠ .crc) :
    terminalStep k s = frameStep (frameRule (.cmd code tail)) s := by
  have run : commandRule code tail s.clearEmptyReads = terminalRule code s.clearEmptyReads :=
    run_commandRule_terminal h hk
  rw [← code_of_commandOf h] at run ⊢
  exact frameStep_congr (gate_bind_congr run.symm)

/-- The row a Command frame stands for runs the Command rule (30_encoding.md R115, R118). -/
theorem exec_ofCommand (s : State) (code : Half) (tail : List Byte) :
    exec (Instr.ofCommand s.cfg code tail) s = frameStep (frameRule (.cmd code tail)) s := by
  have terminal {k : Cmd} (h : commandOf s.cfg code = some k) (hk : k ≠ .crc) :=
    terminalStep_eq_frameStep tail h hk
  unfold Instr.ofCommand
  split
  case h_13 h =>
    split
    · rfl
    · have run : commandRule code tail s.clearEmptyReads = _ := run_commandRule_crc h
      rw [if_pos (by omega)] at run
      exact frameStep_congr (gate_bind_congr run.symm)
  case h_14 => rfl
  all_goals exact terminal ‹_› (by decide)

/-- The row a decoded frame stands for runs the kind rule of that frame (30_encoding.md R118; 41_frame_parser.md
R160). -/
theorem exec_ofFrame (s : State) (f : Frame) :
    exec (Instr.ofFrame s.cfg f) s = frameStep (frameRule f) s := by
  cases f with
  | cmd code tail => exact exec_ofCommand s code tail
  | _ => rfl

/-! ### FRAME_IN (43_session_driver.md R230) -/

section FrameIn
variable {s : State}

theorem execFrameIn_unpresented (h : s.framePresented = false) :
    exec .frameIn s = .fault (.valueless .frameBuffer) := by
  simp [exec, execFrameIn, h]

theorem execFrameIn_empty (h : s.framePresented = true) (hlen : s.flen = 0) :
    exec .frameIn s = exec .empty s := by
  simp [exec, execFrameIn, execEmpty, h, hlen]

theorem execFrameIn_frame (h : s.framePresented = true) (hlen : 0 < s.flen) :
    exec .frameIn s = frameStep (frontEnd s) s := by
  have : s.flen ≠ 0 := by omega
  simp [exec, execFrameIn, h, this]

theorem execFrameIn_decoded (h : s.framePresented = true) (hlen : 0 < s.flen) {f : Frame}
    (hf : decodeFrame s.fb s.flen = .ok f) : exec .frameIn s = exec (Instr.ofFrame s.cfg f) s := by
  rw [execFrameIn_frame h hlen, exec_ofFrame, frontEnd, hf]

end FrameIn

/-- Each row of a frame is the step of some rule (43_session_driver.md R230). -/
theorem exec_isFrame_eq_frameStep {i : Instr} (h : i.isFrame = true) (s : State) :
    ∃ rule, exec i s = frameStep rule s := by
  cases i with
  | sessionReset | load | validate | swap | fixCrc | commit | crcRegion | crcBuf | setActive => cases h
  | frameIn | empty | crcInit | crcUpdate | crcFinal => cases h
  | _ => exact ⟨_, rfl⟩

theorem exec_debug_of_open {s : State} (h : s.sessionOpen = true) :
    exec .debug s = .next { s with emptyReads := false, outcome := .proceed, crcAcc := none } :=
  frameStep_ok (rule := do gate .debug; pure .proceed) h (run_gate_bind (by simp [Kind.gated]) _)

/-- An Error frame in range, outside the read direction, is only reported (41_frame_parser.md R185). -/
theorem exec_error_of_not_read {s : State} (opened : s.sessionOpen = true) {code : Half}
    (inRange : ¬ (code < s.cfg.errMin ∨ s.cfg.errMax < code)) (notRead : s.dir ≠ .read) :
    exec (.error code) s = .next { s with emptyReads := false, outcome := .peerError code, crcAcc := none } := by
  have rule : errorRule code s.clearEmptyReads = .ok (.peerError code) s.clearEmptyReads := by
    simp [errorRule, run_bind, inRange, notRead]
  exact frameStep_ok opened ((run_gate_bind (by simp [Kind.gated]) _).trans rule)

/-- Settles O24: FRAME_IN is the empty read or the step of the row FB decodes to, and a frame's step needs an open
session. -/
theorem frameIn : Obligations.FrameIn := by
  intro s
  refine ⟨execFrameIn_unpresented, execFrameIn_empty, fun closed => ⟨fun h hlen => ?_, fun i hi => ?_⟩,
    fun h hlen opened f hf => ⟨execFrameIn_decoded h hlen hf, ?_, ?_⟩⟩
  · rw [execFrameIn_frame h hlen, frameStep_closed closed]
  · obtain ⟨rule, hrule⟩ := exec_isFrame_eq_frameStep hi s
    rw [hrule, frameStep_closed closed]
  · rintro rfl
    rw [execFrameIn_decoded h hlen hf]
    exact exec_debug_of_open opened
  · rintro code rfl inRange notRead
    rw [execFrameIn_decoded h hlen hf]
    exact exec_error_of_not_read opened inRange notRead

end Sys2Proof.Machine
end

section
/-! The finalising CRC that is refused (spec/42_command_dispatch.md R205, R207; spec/60_exceptions.md R305, R306). -/

namespace Sys2Proof.Machine

/-! ### How the rule runs where storage answers -/

/-- A read past the end of a bound area fails (20_memory.md R64). -/
theorem memRead_past {h : HandleId} {off n : Nat} {s : State} (hf : s.fate = .completes)
    (hn : (s.handle h).area.size.toNat < off + n) :
    memRead h off n s = .ok none s.spendFate.spendGlitch := by
  rw [run_memRead, hf, if_neg (by simp), if_neg (by omega)]

theorem finSpan_eq_ite (cfg : Config) (c : Cat) (d : Descriptor) (n : Word) :
    finSpan cfg c d n = if c = .app then d.partitionSize
      else if cfg.auxSpanIsBytesWritten = true then n else d.contentSize := by
  cases c <;> rfl

theorem errorReply_of_none {s : State} (h : s.cfg.errorReply = .none) (e : Err) : errorReply e s = s := by
  simp [errorReply, h]

section CrcCommandRule
variable {s : State} {received : Word}

theorem run_crcCommandRule_idle (idle : s.tc.inProgress = false) :
    crcCommandRule received s = .error (.raised (.state .notInProgress)) s := by
  simp [crcCommandRule, run_bind, idle]

theorem run_crcCommandRule_untargeted (busy : s.tc.inProgress = true) (target : s.tc.targetId = none) :
    crcCommandRule received s = .error (.fault (.valueless .targetId)) s := by
  simp [crcCommandRule, run_bind, busy, target]

theorem run_crcCommandRule_unloaded {t : Target} (busy : s.tc.inProgress = true)
    (target : s.tc.targetId = some t) (unloaded : s.loaded t.cat = false) :
    crcCommandRule received s = .error (.fault (.valueless (.bootContext t.cat))) s := by
  simp [crcCommandRule, run_bind, busy, target, unloaded]

/-- The span the finalising CRC reads (42_command_dispatch.md R206). -/
def State.crcSpan (s : State) (t : Target) : Word := finSpan s.cfg t.cat (s.desc t.cat t.bank) s.sbTx.cur

variable {t : Target} (busy : s.tc.inProgress = true) (target : s.tc.targetId = some t)
  (loaded : s.loaded t.cat = true) (bound : s.sbTx.bound = true) (answers : s.storageAnswers)
include busy target loaded bound answers

theorem run_crcCommandRule_past (past : s.sbTx.area.size.toNat < (s.crcSpan t).toNat) :
    crcCommandRule received s = .error (.raised (.storage .read)) s.spendFate.spendFate.spendGlitch := by
  have flush : memFlush .tx s = .ok (some s.sbTx.cur) s.spendFate := memFlush_ok answers.fate bound
  have read : regionCrc .tx (s.crcSpan t) s.spendFate = .ok none s.spendFate.spendFate.spendGlitch := by
    rw [run_regionCrc, memRead_past answers.spendFate.fate (by simpa using past)]
    rfl
  rw [State.crcSpan] at read
  simp [crcCommandRule, run_bind, busy, target, loaded, flush, read]

theorem run_crcCommandRule_mismatch (fits : s.sbTx.area.fits = true)
    (inside : (s.crcSpan t).toNat ≤ s.sbTx.area.size.toNat) {v : Word}
    (value : crc32 s.cfg (Memory.readBytes (s.store s.sbTx.area.dev) s.sbTx.area.start.toNat (s.crcSpan t).toNat) = v)
    (mismatch : v ≠ received) :
    crcCommandRule received s =
      .error (.raised (.crcMismatch v received)) s.spendFate.spendFate.spendGlitch := by
  have flush : memFlush .tx s = .ok (some s.sbTx.cur) s.spendFate := memFlush_ok answers.fate bound
  have read : regionCrc .tx (s.crcSpan t) s.spendFate = .ok (some v) s.spendFate.spendFate.spendGlitch := by
    rw [run_regionCrc, memRead_ok (h := .tx) answers.spendFate.fate answers.spendFate.glitch bound fits
      (by simpa using inside), ← value]
    rfl
  rw [State.crcSpan] at read
  simp [crcCommandRule, run_bind, busy, target, loaded, flush, read, mismatch]

end CrcCommandRule

/-- The step of a Crc command that raises behind an open gate, with no error reply. -/
theorem exec_cmdCrc_error {s u : State} {received : Word} {e : Err} (reaches : s.reaches .command)
    (run : crcCommandRule received s.clearEmptyReads = .error (.raised e) u)
    (silent : (takeError e u).cfg.errorReply = .none) :
    exec (.cmdCrc received) s = .next (finish (.error e) (takeError e u)) := by
  obtain ⟨opened, passes⟩ := reaches
  rw [← errorReply_of_none silent e]
  exact frameStep_error opened ((run_gate_bind (s := s.clearEmptyReads) passes _).trans run)

theorem exec_cmdCrc_fault {s u : State} {received : Word} {x : Fault} (reaches : s.reaches .command)
    (run : crcCommandRule received s.clearEmptyReads = .error (.fault x) u) :
    exec (.cmdCrc received) s = .fault x := by
  obtain ⟨opened, passes⟩ := reaches
  have run := (run_gate_bind (s := s.clearEmptyReads) passes (crcCommandRule received)).trans run
  show frameStep (do gate .command; crcCommandRule received) s = _
  simp only [frameStep, opened, run, settleFrame]
  rfl

/-- Settles O36: each way the finalising CRC stops, run on a state whose gate is open. -/
theorem crcCommandRefused : Obligations.CrcCommandRefused := by
  intro s received reaches silent
  refine ⟨fun idle => ?_, fun busy target => ?_, fun t busy target unloaded => ?_,
    fun t busy target loaded bound fits answers => ?_⟩
  · exact exec_cmdCrc_error reaches (run_crcCommandRule_idle idle) silent
  · exact exec_cmdCrc_fault reaches (run_crcCommandRule_untargeted busy target)
  · exact exec_cmdCrc_fault reaches (run_crcCommandRule_unloaded busy target unloaded)
  · intro d span v
    have crcSpan_eq : s.crcSpan t = span := finSpan_eq_ite ..
    clear_value span
    subst crcSpan_eq
    refine ⟨s.storageFates.tail.tail, s.readGlitches.tail, fun past => ?_, fun inside mismatch => ?_⟩
    · rw [exec_cmdCrc_error reaches
        (run_crcCommandRule_past (s := s.clearEmptyReads) busy target loaded bound answers past) silent]
      rfl
    · rw [exec_cmdCrc_error reaches
        (run_crcCommandRule_mismatch (s := s.clearEmptyReads) busy target loaded bound answers
          (decide_eq_true fits) inside rfl mismatch) silent]
      rfl

end Sys2Proof.Machine
end

section
/-! The persisted record (spec/20_memory.md R80, R81): where its fields stand and what decoding it gives. -/

namespace Sys2Proof.Machine

/-! ### Slices of a sequence of fields -/

theorem slice_append_left {x : List Byte} {n : Nat} (h : x.length = n) (y : List Byte) :
    slice (x ++ y) 0 n = x := by
  simp [slice, ← h]

theorem slice_self {x : List Byte} {n : Nat} (h : x.length = n) : slice x 0 n = x := by
  simp [slice, ← h]

theorem slice_append_right {x : List Byte} {a : Nat} (h : x.length ≤ a) (y : List Byte) (b : Nat) :
    slice (x ++ y) a b = slice y (a - x.length) (b - x.length) := by
  simp only [slice, List.take_append, List.drop_append, List.length_take]
  by_cases hb : x.length ≤ b
  · simp [List.drop_eq_nil_of_le, h, hb]
  · simp [List.drop_eq_nil_of_le, show b - x.length = 0 by omega, show min b x.length ≤ a by omega]

/-- The part of a part (00_scope.md R12). -/
theorem slice_slice (B : List Byte) {a b i j : Nat} (h : a + j ≤ b) :
    slice (slice B a b) i j = slice B (a + i) (a + j) := by
  simp only [slice, List.take_drop, List.take_take, List.drop_drop, Nat.min_eq_left h]

/-! ### Numbers in a record (20_memory.md R71 (2)) -/

theorem leValue_leBytes (n v : Nat) : leValue (leBytes n v) = v % 256 ^ n := by
  induction n generalizing v with
  | zero => simp [leBytes, leValue, Nat.mod_one]
  | succ n ih =>
    rw [leBytes, leValue, ih, BitVec.toNat_ofNat, Nat.pow_succ' (m := 256), Nat.mod_mul]

theorem decUint_encUint (e : Endian) (n v : Nat) : decUint e (encUint e n v) = v % 256 ^ n := by
  cases e <;> simp [decUint, encUint, leValue_leBytes]

@[simp] theorem encWord_length (cfg : Config) (v : Word) : (encWord cfg v).length = 4 := by simp [encWord]

theorem wordAt_of_slice {cfg : Config} {bytes : List Byte} {off : Nat} {v : Word}
    (h : slice bytes off (off + 4) = encWord cfg v) : wordAt cfg bytes off = v := by
  have small : v.toNat % 256 ^ 4 = v.toNat := Nat.mod_eq_of_lt v.isLt
  rw [wordAt, h, encWord, decUint_encUint, small, BitVec.ofNat_toNat, BitVec.setWidth_eq]

theorem encWord_little {cfg : Config} (h : cfg.persistEndian = .little) (v : Word) :
    encWord cfg v = leBytes 4 v.toNat := by
  rw [encWord, h]
  rfl

/-! ### Descriptors (20_memory.md R80) -/

/-- The u32 fields of a descriptor stand in a record from an offset on (20_memory.md R80). -/
structure FieldsAt (cfg : Config) (c : Cat) (d : Descriptor) (bytes : List Byte) (off : Nat) : Prop where
  startAddr : slice bytes off (off + 4) = encWord cfg d.startAddr
  contentSize : slice bytes (off + 4) (off + 4 + 4) = encWord cfg d.contentSize
  partitionSize : slice bytes (off + 8) (off + 8 + 4) = encWord cfg d.partitionSize
  crc32 : slice bytes (off + 12) (off + 12 + 4) = encWord cfg d.crc32
  uploadedSize : c = .aux → slice bytes (off + 16) (off + 16 + 4) = encWord cfg d.uploadedSize
  uploadedCrc : c = .aux → slice bytes (off + 20) (off + 20 + 4) = encWord cfg d.uploadedCrc

theorem descriptorBytes_length (cfg : Config) (c : Cat) (d : Descriptor) :
    (descriptorBytes cfg c d).length = arrLen c / 2 := by
  cases c <;> simp [descriptorBytes, arrLen]

theorem descriptorBytes_fields (cfg : Config) (c : Cat) (d : Descriptor) :
    FieldsAt cfg c d (descriptorBytes cfg c d) 0 := by
  constructor <;> intros <;> subst_vars <;>
    simp [descriptorBytes, slice_self, slice_append_left, slice_append_right]

/-- A record that holds a descriptor's bytes holds its fields. -/
theorem FieldsAt.of_slice {cfg : Config} {c : Cat} {d : Descriptor} {bytes : List Byte} {off : Nat}
    (h : slice bytes off (off + arrLen c / 2) = descriptorBytes cfg c d) : FieldsAt cfg c d bytes off := by
  have field {i : Nat} {v : Word} (hi : 0 + i + 4 ≤ arrLen c / 2)
      (hv : slice (descriptorBytes cfg c d) (0 + i) (0 + i + 4) = encWord cfg v) :
      slice bytes (off + i) (off + i + 4) = encWord cfg v := by
    rw [← h, slice_slice _ (by omega)] at hv
    simpa [Nat.add_assoc] using hv
  have fields := descriptorBytes_fields cfg c d
  have size : 16 ≤ arrLen c / 2 := by cases c <;> decide
  exact {
    startAddr := field (i := 0) (by omega) fields.startAddr
    contentSize := field (by omega) fields.contentSize
    partitionSize := field (by omega) fields.partitionSize
    crc32 := field (by omega) fields.crc32
    uploadedSize := fun aux => field (by subst aux; decide) (fields.uploadedSize aux)
    uploadedCrc := fun aux => field (by subst aux; decide) (fields.uploadedCrc aux) }

/-- A descriptor is read back from its fields (R81); the two upload fields are the auxiliary category's. -/
theorem FieldsAt.descriptorAt {cfg : Config} {c : Cat} {d : Descriptor} {bytes : List Byte} {off : Nat}
    (h : FieldsAt cfg c d bytes off) (app : c = .app → d.uploadedSize = 0 ∧ d.uploadedCrc = 0) :
    descriptorAt cfg c bytes off = d := by
  have h1 := wordAt_of_slice h.startAddr
  have h2 := wordAt_of_slice h.contentSize
  have h3 := wordAt_of_slice h.partitionSize
  have h4 := wordAt_of_slice h.crc32
  cases c with
  | app =>
    obtain ⟨_, _, _, _, size, crc⟩ := d
    obtain ⟨rfl, rfl⟩ : size = 0 ∧ crc = 0 := app rfl
    simp only [Machine.descriptorAt, h1, h2, h3, h4]
  | aux =>
    have h5 := wordAt_of_slice (h.uploadedSize rfl)
    have h6 := wordAt_of_slice (h.uploadedCrc rfl)
    simp [Machine.descriptorAt, h1, h2, h3, h4, h5, h6]

/-! ### The record of a context (20_memory.md R80) -/

section Record
variable (cfg : Config) (c : Cat) (ctx : BootContext)

theorem serialise_take_array : (serialise cfg c ctx).take (arrLen c) = arrayBytes cfg c ctx := by
  simp [serialise]

theorem serialise_desc (b : Bank) :
    FieldsAt cfg c (ctx.desc b) (serialise cfg c ctx) (if b = .b0 then 0 else arrLen c / 2) := by
  refine FieldsAt.of_slice ?_
  cases b with
  | b0 =>
    simp [serialise, arrayBytes, slice_append_left, descriptorBytes_length, BootContext.desc]
  | b1 =>
    simp [serialise, arrayBytes, slice_append_left, slice_append_right, descriptorBytes_length, BootContext.desc]

theorem serialise_active :
    slice (serialise cfg c ctx) (arrLen c) (arrLen c + cfg.activeBytes) =
      encUint cfg.persistEndian cfg.activeBytes (cfg.activeEnc.of ctx.active) := by
  simp [serialise, slice_append_left, slice_append_right]

theorem serialise_ownCrc :
    slice (serialise cfg c ctx) (arrLen c + cfg.activeBytes) (arrLen c + cfg.activeBytes + 4) =
      encWord cfg (computedOwnCrc cfg c ctx) := by
  simp [serialise, slice_self, slice_append_right, Nat.add_assoc]

end Record

/-- Each selector decodes from its own number where the numbers differ (R9, R81). -/
theorem activeOf_of {cfg : Config} (h : cfg.activeEncOk) (a : Active) :
    activeOf cfg (cfg.activeEnc.of a % 256 ^ cfg.activeBytes) = a := by
  obtain ⟨differ, fit⟩ := h
  have small : cfg.activeEnc.of a < 256 ^ cfg.activeBytes := fit _ (by cases a <;> simp [ActiveEnc.of])
  rw [Nat.mod_eq_of_lt small]
  cases a <;> simp_all [activeOf, ActiveEnc.of, eq_comm]

theorem deserialise_serialise {cfg : Config} (codes : cfg.activeEncOk) (c : Cat) (ctx : BootContext)
    (app : c = .app → ∀ b, (ctx.desc b).uploadedSize = 0 ∧ (ctx.desc b).uploadedCrc = 0) :
    deserialise cfg c (serialise cfg c ctx) = { ctx with ownCrc := crc32 cfg (arrayBytes cfg c ctx) } := by
  have desc0 := (serialise_desc cfg c ctx .b0).descriptorAt fun h => app h .b0
  have desc1 := (serialise_desc cfg c ctx .b1).descriptorAt fun h => app h .b1
  have own := wordAt_of_slice (serialise_ownCrc cfg c ctx)
  simp only [if_true, reduceCtorEq, if_false] at desc0 desc1
  rw [deserialise, desc0, desc1, serialise_active, decUint_encUint, activeOf_of codes, own]
  rfl

/-- Settles O49: the slices of a serialised context are its fields, and each field decodes to its value. -/
theorem recordLayoutAndRoundTrip : Obligations.RecordLayoutAndRoundTrip := by
  intro cfg c ctx
  refine ⟨fun codes app => deserialise_serialise codes c ctx app, fun little four => ?_⟩
  intro r k le
  have two_k : 2 * k = arrLen c := by cases c <;> rfl
  have half : arrLen c / 2 = k := by cases c <;> rfl
  refine ⟨?_, fun b => ?_, ?_, ?_⟩
  · rw [serialise_length, recLen, four]
    cases c <;> rfl
  · have h := serialise_desc cfg c ctx b
    rw [half] at h
    have word := encWord_little little
    exact ⟨h.startAddr.trans (word _), h.contentSize.trans (word _), h.partitionSize.trans (word _),
      h.crc32.trans (word _), fun aux =>
        ⟨(h.uploadedSize aux).trans (word _), (h.uploadedCrc aux).trans (word _)⟩⟩
  · have active := serialise_active cfg c ctx
    rwa [four, little, ← two_k] at active
  · have own := serialise_ownCrc cfg c ctx
    rw [four, ← two_k, encWord_little little] at own
    rwa [show r.take (2 * k) = arrayBytes cfg c ctx from two_k ▸ serialise_take_array cfg c ctx]

end Sys2Proof.Machine
end

section
/-! How an action ends, as a weakest precondition (spec/00_scope.md R13), and what one storage call can do
(spec/20_memory.md R62 to R70) as one fact a call: later proofs go through these and split no fate again. -/

namespace Sys2Proof.Machine

/-! ### How an action ends -/

/-- Run from `s`, the action meets `Q` where it finishes and `E` where it stops. -/
def Ends {α : Type} (x : Act α) (s : State) (Q : α → State → Prop) (E : Stop → State → Prop) : Prop :=
  match x s with
  | .ok a t => Q a t
  | .error e t => E e t

section Ends
variable {α β : Type} {s : State} {Q : α → State → Prop} {E : Stop → State → Prop}

theorem ends_of_ok {x : Act α} {a : α} {t : State} (h : x s = .ok a t) : Ends x s Q E ↔ Q a t := by
  simp only [Ends, h]

theorem ends_of_error {x : Act α} {e : Stop} {t : State} (h : x s = .error e t) : Ends x s Q E ↔ E e t := by
  simp only [Ends, h]

theorem Ends.ok {x : Act α} {a : α} {t : State} (hx : Ends x s Q E) (h : x s = .ok a t) : Q a t :=
  (ends_of_ok h).mp hx

theorem Ends.error {x : Act α} {e : Stop} {t : State} (hx : Ends x s Q E) (h : x s = .error e t) : E e t :=
  (ends_of_error h).mp hx

theorem Ends.mono {x : Act α} {Q' : α → State → Prop} {E' : Stop → State → Prop} (h : Ends x s Q E)
    (hQ : ∀ a t, Q a t → Q' a t) (hE : ∀ e t, E e t → E' e t) : Ends x s Q' E' := by
  unfold Ends at *
  split at h
  · exact hQ _ _ h
  · exact hE _ _ h

@[simp] theorem ends_pure (a : α) : Ends (pure a) s Q E ↔ Q a s := Iff.rfl

@[simp] theorem ends_get {Q : State → State → Prop} : Ends get s Q E ↔ Q s s := Iff.rfl

@[simp] theorem ends_modify (f : State → State) {Q : PUnit → State → Prop} :
    Ends (modify f) s Q E ↔ Q ⟨⟩ (f s) := Iff.rfl

@[simp] theorem ends_bind (x : Act β) (f : β → Act α) :
    Ends (x >>= f) s Q E ↔ Ends x s (fun b t => Ends (f b) t Q E) E := by
  simp only [Ends, run_bind]
  cases x s <;> rfl

@[simp] theorem ends_require (p : Prop) [Decidable p] (e : Err) {Q : Unit → State → Prop} :
    Ends (require p e) s Q E ↔ (p → Q () s) ∧ (¬ p → E (.raised e) s) := by
  simp only [Ends, run_require]
  by_cases h : p <;> simp [h]

@[simp] theorem ends_memBind (h : HandleId) (a : Area) {Q : Unit → State → Prop} :
    Ends (memBind h a) s Q E ↔ Q () (s.setHandle h { bound := true, area := a, cur := 0 }) := Iff.rfl

theorem ends_emit (f : List Byte) {Q : Unit → State → Prop} (sent : Q () (s.push f))
    (failed : E (.raised (.transport .write)) s.dropPush) : Ends (emit f) s Q E := by
  simp only [Ends, run_emit]
  by_cases h : s.nextTxFails = true <;> simp [h, sent, failed]

end Ends

/-- The direction gate: a frame that passes changes nothing; one that does not is rejected (41_frame_parser.md
R164). -/
theorem ends_gate {k : Kind} {s : State} {Q : Unit → State → Prop} {E : Stop → State → Prop}
    (pass : ¬ (s.dir = .read ∧ Kind.gated k = true) → Q () s)
    (stop : E (.raised (.state .wrongDirection)) s) : Ends (gate k) s Q E := by
  by_cases h : s.dir = .read ∧ Kind.gated k = true <;> simp [Ends, run_gate, h, stop]
  simpa [h] using pass

/-! ### What a storage call leaves -/

/-- No byte of any device. -/
def nowhere (_ : Device) (_ : Nat) : Prop := False

/-- The bytes a MemErase addresses (20_memory.md R66). -/
def Handle.erases (x : Handle) (d : Device) (a : Nat) : Prop := x.bound = true ∧ x.area.covers d a

/-- The bytes a MemWrite of `n` bytes addresses (20_memory.md R65). -/
def Handle.writes (x : Handle) (n : Nat) (d : Device) (a : Nat) : Prop :=
  x.erases d a ∧ x.cursor ≤ a ∧ a < x.cursor + n

/-- What one storage call on the handle `h` leaves, however it goes: only the tapes, the free draws, the cursor
and bytes of `W` change (20_memory.md R63 to R68; 70_reset_and_hazards.md R345). -/
structure Called (h : HandleId) (W : Device → Nat → Prop) (s t : State) : Prop where
  registers : ∃ fates glitches ctr flash spi cur,
    t = ({ s with storageFates := fates, readGlitches := glitches, freeCtr := ctr, flash := flash, spi := spi } :
      State).setHandle h { s.handle h with cur := cur }
  canonical : ∀ d, Memory.wf (s.store d) → Memory.wf (t.store d)
  bytes : ∀ d, Memory.wf (s.store d) → ∀ a, t.byte d a ≠ s.byte d a → W d a
  fates : t.storageFates = s.storageFates.tail
  unbound : (s.handle h).bound = false → t.handle h = s.handle h

/-- How a storage call can stop: at a loss of power, or at an address that does not exist (20_memory.md R61;
70_reset_and_hazards.md R345). -/
def Broke (h : HandleId) (W : Device → Nat → Prop) (s : State) : Stop → State → Prop
  | .raised _, _ => False
  | .powerLost, t => Called h W s t ∧ ¬ s.powerHolds
  | .fault _, t => Called h W s t ∧ (s.handle h).bound = true ∧ (s.handle h).area.fits = false

/-- How a storage call that reaches no byte can stop: at a loss of power. -/
def Lost (h : HandleId) (s : State) : Stop → State → Prop
  | .raised _, _ => False
  | .powerLost, t => Called h nowhere s t ∧ ¬ s.powerHolds
  | .fault _, _ => False

theorem Lost.broke {h : HandleId} {s t : State} {e : Stop} (lost : Lost h s e t) : Broke h nowhere s e t := by
  cases e with
  | powerLost => exact lost
  | _ => exact lost.elim

section Called
variable {h : HandleId} {W : Device → Nat → Prop} {s : State}

theorem Called.spend (h : HandleId) (W : Device → Nat → Prop) (s : State) : Called h W s s.spendFate where
  registers := ⟨s.storageFates.tail, s.readGlitches, s.freeCtr, s.flash, s.spi, (s.handle h).cur,
    by cases h <;> rfl⟩
  canonical := fun d => by simp
  bytes := fun d _ a change => absurd (by simp [State.byte]) change
  fates := rfl
  unbound := fun _ => by simp

theorem Called.read (h : HandleId) (W : Device → Nat → Prop) (s : State) :
    Called h W s s.spendFate.spendGlitch where
  registers := ⟨s.storageFates.tail, s.readGlitches.tail, s.freeCtr, s.flash, s.spi, (s.handle h).cur,
    by cases h <;> rfl⟩
  canonical := fun d => by simp
  bytes := fun d _ a change => absurd (by simp [State.byte]) change
  fates := rfl
  unbound := fun _ => by simp

theorem changed_store (s : State) (h : HandleId) (x : Handle) (d e : Device) (m : Memory) (ctr : Nat) :
    (({ s.spendFate.setStore d m with freeCtr := ctr } : State).setHandle h x).store e =
      if d = e then m else s.store e := by
  cases h <;> cases d <;> cases e <;> rfl

/-- A call that replaces the bytes of one device and the cursor of a bound handle. -/
theorem Called.change {d : Device} {m : Memory} {ctr : Nat} {cur : Word} (bound : (s.handle h).bound = true)
    (canonical : Memory.wf (s.store d) → Memory.wf m)
    (bytes : Memory.wf (s.store d) → ∀ a, Memory.read m a ≠ s.byte d a → W d a) :
    Called h W s
      (({ s.spendFate.setStore d m with freeCtr := ctr } : State).setHandle h { s.handle h with cur := cur }) where
  registers := ⟨s.storageFates.tail, s.readGlitches, ctr, (s.setStore d m).flash, (s.setStore d m).spi, cur,
    by cases h <;> cases d <;> rfl⟩
  canonical := fun e he => by
    rw [changed_store]
    split
    · subst_vars
      exact canonical he
    · exact he
  bytes := fun e he a change => by
    rw [State.byte, changed_store] at change
    split at change
    · subst_vars
      exact bytes he a change
    · exact absurd rfl change
  fates := by cases h <;> cases d <;> rfl
  unbound := fun free => by simp [free] at bound

theorem Called.scrambled {d : Device} {a n : Nat} (bound : (s.handle h).bound = true)
    (covered : ∀ x, a ≤ x → x < a + n → W d x) : Called h W s (s.spendFate.scramble d a n) := by
  have called := Called.change (h := h) (W := W) (s := s) (d := d) (ctr := s.freeCtr + n) (cur := (s.handle h).cur)
    (m := Memory.writeBytes (s.store d) a (freeBytes s.freeCtr n)) bound (fun wf => Memory.writeBytes_wf wf a _) ?_
  · cases h <;> cases d <;> exact called
  · intro wf x change
    by_contra out
    refine change (Memory.read_writeBytes_outside wf ?_)
    by_contra inside
    rw [freeBytes_length] at inside
    exact out (covered x (by omega) (by omega))

theorem Called.programmed {d : Device} {a : Nat} {bytes : List Byte} {cur : Word} (bound : (s.handle h).bound = true)
    (covered : ∀ x, a ≤ x → x < a + bytes.length → W d x) :
    Called h W s ((s.spendFate.program d a bytes).setHandle h { s.handle h with cur := cur }) := by
  refine Called.change (d := d) bound (fun wf => Memory.writeBytes_wf wf a _) fun wf x change => ?_
  by_contra out
  refine change (Memory.read_writeBytes_outside wf ?_)
  by_contra inside
  rw [Memory.programmed_length] at inside
  exact out (covered x (by omega) (by omega))

theorem Called.erased {A : Area} {cur : Word} (bound : (s.handle h).bound = true)
    (covered : ∀ x, A.start.toNat ≤ x → x < A.start.toNat + A.size.toNat → W A.dev x) :
    Called h W s ((s.spendFate.eraseArea A).setHandle h { s.handle h with cur := cur }) := by
  obtain ⟨name, d, start, size⟩ := A
  have called := Called.change (h := h) (W := W) (s := s) (d := d) (ctr := s.freeCtr) (cur := cur)
    (m := Memory.fill (s.store d) start.toNat size.toNat s.cfg.erasedByte) bound
    (fun wf => Memory.fill_wf wf _ _ _) fun wf x change => ?_
  · cases d <;> exact called
  · by_contra out
    rw [Memory.read_fill wf, if_neg fun inside => out (covered x inside.1 inside.2)] at change
    exact change rfl

end Called

/-! ### Each storage call -/

section Calls
variable (h : HandleId) (s : State)

theorem State.powerHolds.fate {s : State} (h : s.powerHolds) : s.fate ≠ .lostBefore ∧ s.fate ≠ .lostDuring := by
  unfold State.fate
  cases fates : s.storageFates with
  | nil => simp
  | cons f fs => exact h f (by simp [fates])

theorem ends_memInit : Ends (memInit h) s
    (fun ok t => Called h nowhere s t ∧ t.handle h = s.handle h ∧
      (ok = true → (s.handle h).bound = true ∧ (s.handle h).area.fits = true))
    (Lost h s) := by
  have call := Called.spend h nowhere s
  have power : s.powerHolds → s.fate ≠ .lostBefore ∧ s.fate ≠ .lostDuring := State.powerHolds.fate
  unfold Ends
  rw [run_memInit]
  cases fate : s.fate <;> simp_all [Lost]

theorem ends_memFlush : Ends (memFlush h) s
    (fun _ t => Called h nowhere s t ∧ t.handle h = s.handle h) (Lost h s) := by
  have call := Called.spend h nowhere s
  have power : s.powerHolds → s.fate ≠ .lostBefore ∧ s.fate ≠ .lostDuring := State.powerHolds.fate
  unfold Ends
  rw [run_memFlush]
  cases fate : s.fate <;> simp_all [Lost]

theorem ends_memRead (off n : Nat) : Ends (memRead h off n) s
    (fun bytes t => Called h nowhere s t ∧ t.handle h = s.handle h ∧
      (bytes.isSome = true → (s.handle h).reads off n))
    (Broke h nowhere s) := by
  have call := Called.read h nowhere s
  have lost := Called.spend h nowhere s
  have power : s.powerHolds → s.fate ≠ .lostBefore ∧ s.fate ≠ .lostDuring := State.powerHolds.fate
  unfold Ends
  rw [run_memRead]
  by_cases inside : (s.handle h).bound = true ∧ off + n ≤ (s.handle h).area.size.toNat
  · by_cases fits : (s.handle h).area.fits = true <;> cases fate : s.fate <;>
      simp_all [Broke, Handle.reads]
  · simp only [if_neg inside]
    cases fate : s.fate <;> simp_all [Broke]

theorem ends_memWrite (bytes : List Byte) : Ends (memWrite h bytes) s
    (fun ok t => Called h ((s.handle h).writes bytes.length) s t ∧
      (ok = true → (s.handle h).bound = true ∧
        (s.handle h).cur.toNat + bytes.length ≤ (s.handle h).area.size.toNat ∧
        t.handle h = { s.handle h with cur := (s.handle h).cur + BitVec.ofNat 32 bytes.length }))
    (Broke h ((s.handle h).writes bytes.length) s) := by
  have power : s.powerHolds → s.fate ≠ .lostBefore ∧ s.fate ≠ .lostDuring := State.powerHolds.fate
  have lost := Called.spend h ((s.handle h).writes bytes.length) s
  unfold Ends
  rw [run_memWrite]
  by_cases inside : (s.handle h).bound = true ∧
      (s.handle h).cur.toNat + bytes.length ≤ (s.handle h).area.size.toNat
  · obtain ⟨bound, room⟩ := inside
    have covered : ∀ x, (s.handle h).cursor ≤ x → x < (s.handle h).cursor + bytes.length →
        (s.handle h).writes bytes.length (s.handle h).area.dev x := by
      intro x low high
      refine ⟨⟨bound, rfl, ?_, ?_⟩, low, high⟩ <;> unfold Handle.cursor at low high <;> omega
    have scrambled := Called.scrambled bound covered
    have programmed := fun cur => Called.programmed (cur := cur) bound covered
    by_cases fits : (s.handle h).area.fits = true <;> cases fate : s.fate <;> simp_all [Broke]
  · simp only [if_neg inside]
    cases fate : s.fate <;> simp_all [Broke]

theorem ends_memErase : Ends (memErase h) s
    (fun ok t => Called h (s.handle h).erases s t ∧
      (ok = true → (s.handle h).bound = true ∧ t.handle h = { s.handle h with cur := 0 }))
    (Broke h (s.handle h).erases s) := by
  have power : s.powerHolds → s.fate ≠ .lostBefore ∧ s.fate ≠ .lostDuring := State.powerHolds.fate
  have lost := Called.spend h (s.handle h).erases s
  unfold Ends
  rw [run_memErase]
  by_cases bound : (s.handle h).bound = true
  · have covered : ∀ x, (s.handle h).area.start.toNat ≤ x →
        x < (s.handle h).area.start.toNat + (s.handle h).area.size.toNat →
        (s.handle h).erases (s.handle h).area.dev x := fun x low high => ⟨bound, rfl, low, high⟩
    have scrambled := Called.scrambled bound covered
    have erased := fun cur => Called.erased (cur := cur) bound covered
    by_cases fits : (s.handle h).area.fits = true <;> cases fate : s.fate <;> simp_all [Broke]
  · cases fate : s.fate <;> simp_all [Broke]

theorem ends_regionCrc (n : Word) : Ends (regionCrc h n) s
    (fun _ t => Called h nowhere s t ∧ t.handle h = s.handle h) (Broke h nowhere s) := by
  have read := ends_memRead h s 0 n.toNat
  simp only [regionCrc, ends_bind, ends_get, ends_pure]
  exact read.mono (fun _ _ done => ⟨done.1, done.2.1⟩) fun _ _ stop => stop

end Calls

end Sys2Proof.Machine
end

section
/-! The invariant in two parts, the block's registers and the transfer's, as they stand while a rule runs: what
keeps each part, and when the parts make the invariant again at the end of a step (spec/10_state.md R21 to R41). -/

namespace Sys2Proof.Machine

/-! ### The block's part -/

/-- The part of `Inv` that holds at every moment of a step, and the record the step runs under. -/
structure BlockInv (cfg : Config) (s : State) : Prop where
  record : s.cfg = cfg
  configuration : cfg.buildable
  canonical : ∀ d, Memory.wf (s.store d)
  frameBuffer : s.fb.length = 516
  emptyReads : s.emptyReads = true → s.sessionOpen = true
  forced : s.forceUpdate = s.corruptApp
  appFields : ∀ b, (s.desc .app b).uploadedSize = 0 ∧ (s.desc .app b).uploadedCrc = 0

theorem BlockInv.called {cfg : Config} {h : HandleId} {W : Device → Nat → Prop} {s t : State}
    (block : BlockInv cfg s) (call : Called h W s t) : BlockInv cfg t := by
  have canonical := fun d => call.canonical d (block.canonical d)
  obtain ⟨_, _, _, _, _, _, rfl⟩ := call.registers
  cases h <;> exact
    { record := block.record, configuration := block.configuration, canonical := canonical
      frameBuffer := block.frameBuffer, emptyReads := block.emptyReads, forced := block.forced
      appFields := block.appFields }

/-- A change of registers that the block's part does not speak of. -/
theorem BlockInv.congr {cfg : Config} {s t : State} (block : BlockInv cfg s) (record : t.cfg = s.cfg)
    (store : ∀ d, t.store d = s.store d) (fb : t.fb = s.fb)
    (emptyReads : t.emptyReads = true → t.sessionOpen = true) (forced : t.forceUpdate = t.corruptApp)
    (appFields : ∀ b, (t.desc .app b).uploadedSize = 0 ∧ (t.desc .app b).uploadedCrc = 0) : BlockInv cfg t where
  record := record.trans block.record
  configuration := block.configuration
  canonical := fun d => store d ▸ block.canonical d
  frameBuffer := fb ▸ block.frameBuffer
  emptyReads := emptyReads
  forced := forced
  appFields := appFields

theorem BlockInv.setHandle {cfg : Config} {s : State} (block : BlockInv cfg s) (h : HandleId) (x : Handle) :
    BlockInv cfg (s.setHandle h x) := by
  cases h <;> exact block.congr rfl (fun _ => rfl) rfl block.emptyReads block.forced block.appFields

/-- A context whose application descriptors leave the two upload fields at 0 (10_state.md R34). -/
def plainContext (c : Cat) (ctx : BootContext) : Prop :=
  c = .app → ∀ b, (ctx.desc b).uploadedSize = 0 ∧ (ctx.desc b).uploadedCrc = 0

theorem plainContext.congr {c : Cat} {ctx ctx' : BootContext} (plain : plainContext c ctx)
    (size : ∀ b, (ctx'.desc b).uploadedSize = (ctx.desc b).uploadedSize)
    (crc : ∀ b, (ctx'.desc b).uploadedCrc = (ctx.desc b).uploadedCrc) : plainContext c ctx' := fun app b => by
  rw [size, crc]
  exact plain app b

theorem BlockInv.plainContext {cfg : Config} {s : State} (block : BlockInv cfg s) (c : Cat) :
    plainContext c (s.bc c) := by
  rintro rfl
  exact block.appFields

theorem BlockInv.setBc {cfg : Config} {s : State} (block : BlockInv cfg s) {c : Cat} {ctx : BootContext}
    (plain : Machine.plainContext c ctx) : BlockInv cfg (s.setBc c ctx) := by
  cases c with
  | app => exact block.congr rfl (fun _ => rfl) rfl block.emptyReads block.forced (plain rfl)
  | aux => exact block.congr rfl (fun _ => rfl) rfl block.emptyReads block.forced block.appFields

/-- A loss of power leaves a state of the invariant (70_reset_and_hazards.md R345). -/
theorem BlockInv.powerUp {cfg : Config} {s : State} (block : BlockInv cfg s) :
    Inv s.powerUp ∧ s.powerUp.cfg = cfg :=
  ⟨State.powerUp_inv (by rw [block.record]; exact block.configuration) (block.canonical .flash)
    (block.canonical .spi), block.record⟩

/-! ### The transfer's part -/

/-- The part of `Inv` that speaks of TC, DIR, RB_OFF and SB_TX (10_state.md R26, R27, R31, R40). -/
structure TransferInv (s : State) : Prop where
  direction : s.dir = .noDir ↔ s.tc.inProgress = false
  emptyContext : s.tc.inProgress = false → s.tc = TransferContext.blank
  target : s.tc.inProgress = true → ∃ t, s.tc.targetId = some t ∧ s.loaded t.cat = true
  transferHandle : s.sbTx.bound = s.tc.inProgress
  transferArea : s.sbTx.bound = true → s.sbTx.area.fits = true ∧ s.sbTx.cur.toNat ≤ s.sbTx.area.size.toNat
  transferCursor : s.sbTx.bound = false → s.sbTx.cur = 0
  offsetAtRest : s.dir ≠ .read → s.rbOff = 0
  offset : s.dir = .read → 0 < s.tc.expectedSize.toNat ∧ s.sbTx.cur = 0 ∧
    s.rbOff.toNat = min (512 * (s.tc.lastBlock.toNat + 1)) s.tc.expectedSize.toNat ∧
    s.rbOff.toNat ≤ s.sbTx.area.size.toNat
  finalising : s.tc.crcReceived = true → s.dir = .write
  written : s.dir = .write → s.tc.expectedSize = 0 ∧ s.sbTx.cur.toNat ≤ 512 * s.tc.lastBlock.toNat

theorem TransferInv.congr {s t : State} (transfer : TransferInv s) (tc : t.tc = s.tc) (dir : t.dir = s.dir)
    (rbOff : t.rbOff = s.rbOff) (sbTx : t.sbTx = s.sbTx) (loaded : ∀ c, s.loaded c = true → t.loaded c = true) :
    TransferInv t := by
  have target : s.tc.inProgress = true → ∃ x, s.tc.targetId = some x ∧ t.loaded x.cat = true := fun busy =>
    let ⟨x, held, ready⟩ := transfer.target busy
    ⟨x, held, loaded _ ready⟩
  obtain ⟨direction, emptyContext, -, transferHandle, transferArea, transferCursor, offsetAtRest, offset,
    finalising, written⟩ := transfer
  constructor <;> simp only [tc, dir, rbOff, sbTx] <;> assumption

/-- The empty context is a transfer of the invariant (10_state.md R26). -/
theorem transferInv_contextReset {s : State} (closed : s.sbTx.bound = false → s.sbTx.cur = 0) :
    TransferInv (contextReset s) := by
  have handle : (contextReset s).sbTx.bound = false ∧ (contextReset s).sbTx.cur = 0 := by
    by_cases bound : s.sbTx.bound = true <;> simp_all [contextReset]
  obtain ⟨bound, cur⟩ := handle
  constructor <;> simp [-contextReset_sbTx, bound, cur, TransferContext.blank]

/-! ### The invariant from its parts -/

theorem Inv.block {s : State} (inv : Inv s) : BlockInv s.cfg s where
  record := rfl
  configuration := inv.configuration
  canonical := fun d => by cases d <;> [exact inv.flashCanonical; exact inv.spiCanonical]
  frameBuffer := inv.frameBuffer
  emptyReads := inv.emptyReads
  forced := inv.forced
  appFields := inv.appFields

theorem Inv.transfer {s : State} (inv : Inv s) : TransferInv s where
  direction := inv.direction
  emptyContext := inv.emptyContext
  target := inv.target
  transferHandle := inv.transferHandle
  transferArea := inv.transferArea
  transferCursor := inv.transferCursor
  offsetAtRest := inv.offsetAtRest
  offset := inv.offset
  finalising := inv.finalising
  written := inv.written

/-- The invariant holds again once both parts do, SB_PM is closed and CRC_ACC holds no value. -/
theorem Inv.of_parts {cfg : Config} {s : State} (block : BlockInv cfg s) (transfer : TransferInv s)
    (validator : s.sbPm.isClosed) (accumulator : s.crcAcc = none) : Inv s where
  configuration := block.record ▸ block.configuration
  flashCanonical := block.canonical .flash
  spiCanonical := block.canonical .spi
  frameBuffer := block.frameBuffer
  direction := transfer.direction
  emptyContext := transfer.emptyContext
  target := transfer.target
  transferHandle := transfer.transferHandle
  transferArea := transfer.transferArea
  transferCursor := transfer.transferCursor
  validatorHandle := validator
  offsetAtRest := transfer.offsetAtRest
  offset := transfer.offset
  finalising := transfer.finalising
  written := transfer.written
  emptyReads := block.emptyReads
  forced := block.forced
  noAccumulator := accumulator
  appFields := block.appFields

/-- The last action of a step, `finish`, makes the invariant of its parts. -/
theorem inv_finish {cfg : Config} {s : State} (block : BlockInv cfg s) (transfer : TransferInv s)
    (validator : s.sbPm.isClosed) (v : StepOutcome) : Inv (finish v s) ∧ (finish v s).cfg = cfg :=
  ⟨Inv.of_parts (block.congr rfl (fun _ => rfl) rfl block.emptyReads block.forced block.appFields)
    (transfer.congr rfl rfl rfl rfl fun _ h => h) validator rfl, block.record⟩

end Sys2Proof.Machine
end

section
/-! What the operations of the caller keep (spec/44_descriptor_validator.md; spec/40_crc_engine.md R150, R151): from a
state of the invariant each ends in one, or raises in one, and none is a fault of the model. -/

namespace Sys2Proof.Machine

/-! ### The states inside an operation -/

/-- The invariant inside an operation, whatever SB_PM holds. -/
structure Operating (cfg : Config) (s : State) : Prop where
  block : BlockInv cfg s
  transfer : TransferInv s

/-- The invariant between the parts of an operation: SB_PM is closed (44_descriptor_validator.md R260). -/
structure Resting (cfg : Config) (s : State) : Prop extends Operating cfg s where
  validator : s.sbPm.isClosed

/-- How an operation may stop: with an error between its parts, or at a loss of power. -/
def operationStop (cfg : Config) : Stop → State → Prop
  | .raised _, t => Resting cfg t
  | .powerLost, t => BlockInv cfg t
  | .fault _, _ => False

theorem Operating.setHandle_pm {cfg : Config} {s : State} (h : Operating cfg s) (x : Handle) :
    Operating cfg (s.setHandle .pm x) :=
  ⟨h.block.setHandle .pm x, h.transfer.congr rfl rfl rfl rfl fun _ ready => ready⟩

theorem Operating.called {cfg : Config} {W : Device → Nat → Prop} {s t : State} (h : Operating cfg s)
    (call : Called .pm W s t) : Operating cfg t := by
  refine ⟨h.block.called call, ?_⟩
  obtain ⟨_, _, _, _, _, _, rfl⟩ := call.registers
  exact h.transfer.congr rfl rfl rfl rfl fun c ready => by cases c <;> exact ready

theorem Called.pm_area {W : Device → Nat → Prop} {s t : State} (call : Called .pm W s t) :
    t.sbPm.area = s.sbPm.area := by
  obtain ⟨_, _, _, _, _, _, rfl⟩ := call.registers
  rfl

theorem Broke.operationStop {cfg : Config} {W : Device → Nat → Prop} {s t : State} {e : Stop}
    (broke : Broke .pm W s e t) (h : Operating cfg s) (fits : s.sbPm.area.fits = true) :
    operationStop cfg e t := by
  cases e with
  | raised => exact broke.elim
  | powerLost => exact h.block.called broke.1
  | fault => simp [Broke, fits] at broke

theorem Lost.operationStop {cfg : Config} {s t : State} {e : Stop} (lost : Lost .pm s e t)
    (h : Operating cfg s) : operationStop cfg e t := by
  cases e with
  | powerLost => exact h.block.called lost.1
  | _ => exact lost.elim

/-! ### Three kinds of action of an operation -/

section Kinds
variable (cfg : Config) {α : Type}

/-- An action that runs with SB_PM closed before and after. -/
def Runs (x : Act α) : Prop :=
  ∀ s, Resting cfg s → Ends x s (fun _ t => Resting cfg t) (operationStop cfg)

/-- An action inside an area that exists, such as a read or a write through SB_PM. -/
def Inside (x : Act α) : Prop :=
  ∀ s, Operating cfg s → s.sbPm.area.fits = true →
    Ends x s (fun _ t => Operating cfg t ∧ t.sbPm.area.fits = true) (operationStop cfg)

/-- An action that answers true only where the area of SB_PM exists, such as MemInit (20_memory.md R61). -/
def Opens (x : Act Bool) : Prop :=
  ∀ s, Operating cfg s →
    Ends x s (fun ok t => Operating cfg t ∧ (ok = true → t.sbPm.area.fits = true)) (operationStop cfg)

end Kinds

section Operations
variable {cfg : Config} {α β : Type}

theorem runs_pure (a : α) : Runs cfg (pure a) := fun _ h => h

theorem runs_raise (e : Err) : Runs cfg (raise e : Act α) := fun _ h => h

theorem runs_bind {x : Act β} {f : β → Act α} (hx : Runs cfg x) (hf : ∀ b, Runs cfg (f b)) :
    Runs cfg (x >>= f) := fun s h =>
  (ends_bind x f).mpr ((hx s h).mono (fun b t ht => hf b t ht) fun _ _ stop => stop)

theorem runs_get {f : State → Act α} (hf : ∀ s, Runs cfg (f s)) : Runs cfg (get >>= f) :=
  runs_bind (fun _ h => h) hf

theorem runs_modify {f : State → State} (hf : ∀ s, Resting cfg s → Resting cfg (f s)) :
    Runs cfg (modify f : Act PUnit) := hf

theorem runs_requireLoaded (c : Cat) : Runs cfg (requireLoaded c) := fun s h => by
  simp [requireLoaded, operationStop, h]

theorem inside_pure (a : α) : Inside cfg (pure a) := fun _ h fits => ⟨h, fits⟩

theorem inside_bind {x : Act β} {f : β → Act α} (hx : Inside cfg x) (hf : ∀ b, Inside cfg (f b)) :
    Inside cfg (x >>= f) := fun s h fits =>
  (ends_bind x f).mpr ((hx s h fits).mono (fun b t ht => hf b t ht.1 ht.2) fun _ _ stop => stop)

theorem inside_of_call {x : Act α}
    (call : ∀ s, ∃ W, Ends x s (fun _ t => Called .pm W s t) (Broke .pm W s)) : Inside cfg x := fun s h fits =>
  let ⟨_, ends⟩ := call s
  ends.mono (fun _ _ called => ⟨h.called called, called.pm_area ▸ fits⟩)
    fun _ _ broke => broke.operationStop h fits

theorem inside_memRead (off n : Nat) : Inside cfg (memRead .pm off n) :=
  inside_of_call fun s => ⟨_, (ends_memRead .pm s off n).mono (fun _ _ done => done.1) fun _ _ stop => stop⟩

theorem inside_regionCrc (n : Word) : Inside cfg (regionCrc .pm n) :=
  inside_of_call fun s => ⟨_, (ends_regionCrc .pm s n).mono (fun _ _ done => done.1) fun _ _ stop => stop⟩

theorem inside_memWrite (bytes : List Byte) : Inside cfg (memWrite .pm bytes) :=
  inside_of_call fun s => ⟨_, (ends_memWrite .pm s bytes).mono (fun _ _ done => done.1) fun _ _ stop => stop⟩

theorem inside_memErase : Inside cfg (memErase .pm) :=
  inside_of_call fun s => ⟨_, (ends_memErase .pm s).mono (fun _ _ done => done.1) fun _ _ stop => stop⟩

theorem inside_memFlush : Inside cfg (memFlush .pm) :=
  inside_of_call fun s => ⟨_, (ends_memFlush .pm s).mono (fun _ _ done => done.1) fun _ _ stop => stop.broke⟩

theorem opens_memInit : Opens cfg (memInit .pm) := fun s h =>
  (ends_memInit .pm s).mono
    (fun _ _ ⟨call, _, ok⟩ => ⟨h.called call, fun yes => call.pm_area ▸ (ok yes).2⟩)
    fun _ _ lost => lost.operationStop h

/-- What runs only where the area exists still answers true only there. -/
theorem opens_then {x y : Act Bool} (hx : Opens cfg x) (hy : Inside cfg y) :
    Opens cfg (x >>= fun ok => if ok = true then y else pure false) := fun s h => by
  rw [ends_bind]
  refine (hx s h).mono (fun ok t ht => ?_) fun _ _ stop => stop
  cases ok with
  | true => exact (hy t ht.1 (ht.2 rfl)).mono (fun _ _ done => ⟨done.1, fun _ => done.2⟩) fun _ _ stop => stop
  | false => exact ⟨ht.1, nofun⟩

/-- A part of an operation: SB_PM bound, its area tried, the body run where that exists, SB_PM closed
(44_descriptor_validator.md R260). -/
theorem runs_bracket (A : Area) {x : Act Bool} {body : Act β} {d : β} {k : β → Act α} (hx : Opens cfg x)
    (hbody : Inside cfg body) (hk : ∀ r, Runs cfg (k r)) :
    Runs cfg (do
      memBind .pm A
      let r ← if ← x then body else pure d
      memClose .pm
      k r) := by
  intro s h
  have close (r : β) (t : State) (ht : Operating cfg t) :
      Ends (memClose .pm >>= fun _ => k r) t (fun _ t => Resting cfg t) (operationStop cfg) :=
    hk r _ ⟨ht.setHandle_pm _, rfl, rfl⟩
  simp only [ends_bind, ends_memBind] at close ⊢
  refine (hx _ (h.setHandle_pm _)).mono (fun ok t ht => ?_) fun _ _ stop => stop
  cases ok with
  | true =>
    simp only [if_true, ends_bind]
    exact (hbody t ht.1 (ht.2 rfl)).mono (fun r u hu => close r u hu.1) fun _ _ stop => stop
  | false => exact close d t ht.1

/-! ### The copies of a context -/

theorem runs_readCopy (c : Cat) (which : Copy) : Runs cfg (readCopy c which) :=
  runs_get fun _ => runs_bracket _ opens_memInit (inside_memRead _ _) runs_pure

theorem opens_writeCopy (image : List Byte) : Opens cfg (writeCopy image) := by
  refine opens_then opens_memInit (inside_bind inside_memErase fun erased => ?_)
  cases erased with
  | false => exact inside_pure false
  | true =>
    refine inside_bind (inside_memWrite image) fun written => ?_
    cases written with
    | false => exact inside_pure false
    | true => exact inside_bind inside_memFlush fun _ => inside_pure _

theorem runs_persistCopy (c : Cat) (which : Copy) (ctx : BootContext) : Runs cfg (persistCopy c which ctx) :=
  runs_get fun _ => runs_bracket _ (opens_writeCopy _) (inside_memRead _ _) fun _ => runs_pure _

theorem Resting.setBc {s : State} (h : Resting cfg s) {c : Cat} {ctx : BootContext} (plain : plainContext c ctx) :
    Resting cfg (s.setBc c ctx) where
  block := h.block.setBc plain
  transfer := by cases c <;> exact h.transfer.congr rfl rfl rfl rfl fun d ready => by cases d <;> exact ready
  validator := by cases c <;> exact h.validator

theorem runs_persistBoth (c : Cat) : Runs cfg (persistBoth c) := by
  refine runs_bind (runs_modify fun s h => h.setBc ?_) fun _ => runs_get fun s =>
    runs_bind (runs_persistCopy c .primary _) fun ok => ?_
  · exact (h.block.plainContext c).congr (by rintro ⟨⟩ <;> rfl) (by rintro ⟨⟩ <;> rfl)
  · cases ok with
    | true => exact runs_persistCopy c .backup _
    | false => exact runs_pure false

/-! ### LOAD (44_descriptor_validator.md R265 to R269) -/

theorem plainContext_fresh (cfg : Config) (c : Cat) : plainContext c (fresh cfg c) := by
  rintro rfl b
  cases b <;> exact ⟨rfl, rfl⟩

theorem plainContext_deserialise (cfg : Config) (c : Cat) (bytes : List Byte) :
    plainContext c (deserialise cfg c bytes) := by
  rintro rfl b
  cases b <;> exact ⟨rfl, rfl⟩

theorem runs_eraseBank (c : Cat) (b : Bank) : Runs cfg (eraseBank c b) :=
  runs_get fun _ => runs_bracket _ opens_memInit inside_memErase runs_pure

/-- A category that is loaded stays so (44_descriptor_validator.md R265). -/
theorem loaded_setLoaded {s : State} {d : Cat} (ready : s.loaded d = true) (c : Cat) :
    (s.setLoaded c).loaded d = true := by
  cases c <;> cases d <;> simp_all [State.loaded, State.setLoaded]

theorem runs_installContext {c : Cat} {ctx : BootContext} (plain : plainContext c ctx) (src : LoadSource)
    (ok : Bool) : Runs cfg (installContext c ctx src ok) := by
  refine runs_bind (runs_modify fun s h => ?_) fun _ => runs_pure _
  have h := h.setBc plain
  generalize s.setBc c ctx = t at h
  have loaded := fun d (ready : t.loaded d = true) => loaded_setLoaded ready c
  cases c <;> exact
    { block := h.block.congr rfl (fun _ => rfl) rfl h.block.emptyReads h.block.forced h.block.appFields
      transfer := h.transfer.congr rfl rfl rfl rfl loaded
      validator := h.validator }

theorem runs_loadFresh (c : Cat) : Runs cfg (loadFresh c) :=
  runs_get fun _ => runs_bind (runs_modify fun _ h => h.setBc (plainContext_fresh _ c)) fun _ =>
    runs_bind (runs_persistBoth c) fun _ => runs_installContext (plainContext_fresh _ c) _ _

theorem Resting.markCorrupt {s : State} (h : Resting cfg s) (c : Cat) : Resting cfg (s.markCorrupt c) where
  block := by
    cases c with
    | app => exact h.block.congr rfl (fun _ => rfl) rfl h.block.emptyReads rfl h.block.appFields
    | aux => exact h.block.congr rfl (fun _ => rfl) rfl h.block.emptyReads h.block.forced h.block.appFields
  transfer := by cases c <;> exact h.transfer.congr rfl rfl rfl rfl fun d ready => by cases d <;> exact ready
  validator := by cases c <;> exact h.validator

theorem runs_loadCorrupt (c : Cat) : Runs cfg (loadCorrupt c) :=
  runs_bind (runs_modify fun _ h => h.markCorrupt c) fun _ =>
    runs_bind (runs_eraseBank c .b0) fun _ => runs_bind (runs_eraseBank c .b1) fun _ => runs_get fun _ =>
      runs_bind (runs_modify fun _ h => h.setBc (plainContext_fresh _ c)) fun _ =>
        runs_bind (runs_persistBoth c) fun _ => runs_installContext (plainContext_fresh _ c) _ _

theorem runs_loadRepair {c : Cat} {ctx : BootContext} (plain : plainContext c ctx) (src : LoadSource) (bad : Copy) :
    Runs cfg (loadRepair c ctx src bad) :=
  runs_bind (runs_persistCopy c bad ctx) fun _ => runs_installContext plain src _

theorem runs_loadCases (c : Cat) (p b : List Byte) : Runs cfg (loadCases c p b) := by
  refine runs_get fun s => ?_
  have repair (bytes : List Byte) (src : LoadSource) (bad : Copy) :=
    runs_loadRepair (cfg := cfg) (plainContext_deserialise s.cfg c bytes) src bad
  cases primary : copyStatus s.cfg c p <;> cases backup : copyStatus s.cfg c b <;> simp only [primary, backup]
  case valid.valid =>
    by_cases same : p = b
    · rw [if_pos same]
      exact runs_installContext (plainContext_deserialise _ _ _) _ _
    · rw [if_neg same]
      exact repair _ _ _
  case invalid.invalid => exact runs_loadCorrupt c
  case empty.empty | empty.invalid | invalid.empty => exact runs_loadFresh c
  all_goals exact repair _ _ _

theorem runs_loadRule (c : Cat) : Runs cfg (loadRule c) := by
  refine runs_bind (runs_readCopy c .primary) fun p => ?_
  cases p with
  | none => exact runs_raise _
  | some p =>
    refine runs_bind (runs_readCopy c .backup) fun b => ?_
    cases b with
    | none => exact runs_raise _
    | some b => exact runs_loadCases c p b

/-! ### The other operations (44_descriptor_validator.md R270 to R279; 40_crc_engine.md R150, R151) -/

theorem inside_bankStatus (d : Descriptor) (n : Word) : Inside cfg (bankStatus d n) := by
  refine inside_bind (inside_regionCrc n) fun v => ?_
  cases v with
  | none => exact inside_pure _
  | some v =>
    dsimp only
    by_cases same : v = d.crc32
    · rw [if_pos same]
      exact inside_pure _
    · rw [if_neg same]
      by_cases zero : v = 0
      · rw [if_pos zero]
        exact inside_bind (inside_regionCrc n) fun _ => inside_pure _
      · rw [if_neg zero]
        exact inside_pure _

theorem runs_validateRule (c : Cat) (b : Bank) : Runs cfg (validateRule c b) := by
  refine runs_bind (runs_requireLoaded c) fun _ => runs_get fun s => ?_
  by_cases empty : (s.desc c b).crc32 = sentinelCrc
  · simp only [empty, if_true]
    exact runs_pure _
  · simp only [empty, if_false]
    exact runs_bracket _ opens_memInit (inside_bankStatus _ _) fun _ => runs_pure _

theorem runs_bankCrc (c : Cat) (b : Bank) (size : Word) : Runs cfg (bankCrc c b size) := by
  refine runs_get fun s => runs_bracket _ opens_memInit (inside_regionCrc _) fun v => ?_
  cases v with
  | none => exact runs_raise _
  | some v => exact runs_pure v

theorem Resting.setActive {s : State} (h : Resting cfg s) (c : Cat) (a : Active) : Resting cfg (s.setActive c a) :=
  h.setBc ((h.block.plainContext c).congr (by rintro ⟨⟩ <;> rfl) (by rintro ⟨⟩ <;> rfl))

theorem Resting.setDesc {s : State} (h : Resting cfg s) (c : Cat) (b : Bank) (v : Word) :
    Resting cfg (s.setDesc c b { s.desc c b with crc32 := v }) :=
  h.setBc ((h.block.plainContext c).congr (by cases b <;> rintro ⟨⟩ <;> rfl)
    (by cases b <;> rintro ⟨⟩ <;> rfl))

theorem runs_swapRule (c : Cat) : Runs cfg (swapRule c) :=
  runs_bind (runs_requireLoaded c) fun _ => runs_bind (runs_modify fun _ h => h.setActive c _) fun _ =>
    runs_get fun _ => runs_bind (runs_persistBoth c) fun _ => runs_pure _

theorem runs_fixCrcRule (c : Cat) (b : Bank) (size : Word) : Runs cfg (fixCrcRule c b size) :=
  runs_bind (runs_requireLoaded c) fun _ => runs_bind (runs_bankCrc c b size) fun v =>
    runs_bind (runs_modify fun _ h => h.setDesc c b v) fun _ =>
      runs_bind (runs_persistBoth c) fun _ => runs_pure _

theorem runs_commitRule (c : Cat) : Runs cfg (commitRule c) :=
  runs_bind (runs_requireLoaded c) fun _ => runs_bind (runs_persistBoth c) fun _ => runs_pure _

theorem runs_setActiveRule (c : Cat) (a : Active) : Runs cfg (setActiveRule c a) :=
  runs_bind (runs_requireLoaded c) fun _ => runs_bind (runs_modify fun _ h => h.setActive c a) fun _ => runs_pure _

theorem runs_crcRegionRule (c : Cat) (b : Bank) (size : Word) : Runs cfg (crcRegionRule c b size) :=
  runs_bind (runs_requireLoaded c) fun _ => runs_bind (runs_bankCrc c b size) fun _ => runs_pure _

theorem runs_crcBufRule (size : Word) (buffer : List Byte) : Runs cfg (crcBufRule size buffer) := fun _ h =>
  { block := h.block.congr rfl (fun _ => rfl) rfl h.block.emptyReads h.block.forced h.block.appFields
    transfer := h.transfer.congr rfl rfl rfl rfl fun _ ready => ready
    validator := h.validator }

end Operations

/-- A caller operation whose rule keeps the invariant ends in a state of it. -/
theorem operationStep_inv {rule : Act StepOutcome} {s : State} (inv : Inv s) (run : Runs s.cfg rule) :
    ∃ t, operationStep rule s = .next t ∧ Inv t ∧ t.cfg = s.cfg := by
  have ends := run s ⟨⟨inv.block, inv.transfer⟩, inv.validatorHandle⟩
  have finished {u : State} (rest : Resting s.cfg u) (v : StepOutcome) :=
    inv_finish rest.block rest.transfer rest.validator v
  cases result : rule s with
  | ok v u => exact ⟨_, operationStep_ok result, finished (ends.ok result) v⟩
  | error e u =>
    have stop := ends.error result
    cases e with
    | raised e => exact ⟨_, operationStep_error result, finished stop _⟩
    | powerLost => exact ⟨u.powerUp, by simp [operationStep, settleOperation, result], stop.powerUp⟩
    | fault => exact stop.elim

end Sys2Proof.Machine
end

section
/-! What a frame's rule keeps (spec/41_frame_parser.md, spec/42_command_dispatch.md, spec/43_session_driver.md):
from a state of the invariant it ends in one, or in an error whose effect makes one, and none is a fault of the
model. -/

namespace Sys2Proof.Machine

/-! ### The states inside a frame's rule -/

/-- What holds at every moment of a frame's rule, a transfer half opened included. -/
structure Serving (cfg : Config) (s : State) : Prop where
  block : BlockInv cfg s
  validator : s.sbPm.isClosed
  read : s.emptyReads = false
  closed : s.sbTx.bound = false → s.sbTx.cur = 0

/-- How a frame's rule may stop: with an error whose effect leaves a transfer of the invariant, or at a loss of
power. -/
def frameStop (cfg : Config) : Stop → State → Prop
  | .raised e, t => Serving cfg t ∧ TransferInv (takeError e t)
  | .powerLost, t => BlockInv cfg t
  | .fault _, _ => False

/-- Run from `s`, a frame's rule ends with a transfer of the invariant. -/
abbrev Serves (cfg : Config) (rule : Act StepOutcome) (s : State) : Prop :=
  Ends rule s (fun _ t => Serving cfg t ∧ TransferInv t) (frameStop cfg)

section Frames
variable {cfg : Config} {s t : State}

theorem Serving.contextReset (h : Serving cfg s) : Serving cfg (contextReset s) where
  block := h.block.congr rfl (fun _ => rfl) rfl h.block.emptyReads h.block.forced h.block.appFields
  validator := h.validator
  read := h.read
  closed := (transferInv_contextReset h.closed).transferCursor

theorem Serving.closeSession (h : Serving cfg s) : Serving cfg s.closeSession where
  block := h.block.congr rfl (fun _ => rfl) rfl (fun set => by simp [h.read] at set) h.block.forced h.block.appFields
  validator := h.validator
  read := h.read
  closed := h.closed

/-- A change of TC, DIR, RB_OFF, the tapes or TXQ alone. -/
theorem Serving.congr (h : Serving cfg s) (block : BlockInv cfg s → BlockInv cfg t) (sbPm : t.sbPm = s.sbPm)
    (emptyReads : t.emptyReads = s.emptyReads) (sbTx : t.sbTx = s.sbTx) : Serving cfg t where
  block := block h.block
  validator := sbPm ▸ h.validator
  read := emptyReads.trans h.read
  closed := sbTx ▸ h.closed

theorem Serving.push (h : Serving cfg s) (f : List Byte) : Serving cfg (s.push f) :=
  h.congr (fun b => b.congr rfl (fun _ => rfl) rfl b.emptyReads b.forced b.appFields) rfl rfl rfl

theorem Serving.dropPush (h : Serving cfg s) : Serving cfg s.dropPush :=
  h.congr (fun b => b.congr rfl (fun _ => rfl) rfl b.emptyReads b.forced b.appFields) rfl rfl rfl

theorem Serving.setTransfer (h : Serving cfg s) (tc : TransferContext) (dir : Dir) (rbOff : Word) :
    Serving cfg { s with tc := tc, dir := dir, rbOff := rbOff } :=
  h.congr (fun b => b.congr rfl (fun _ => rfl) rfl b.emptyReads b.forced b.appFields) rfl rfl rfl

theorem Serving.setTx (h : Serving cfg s) {x : Handle} (closed : x.bound = false → x.cur = 0) :
    Serving cfg (s.setHandle .tx x) where
  block := h.block.setHandle .tx x
  validator := h.validator
  read := h.read
  closed := closed

theorem Serving.called {W : Device → Nat → Prop} (h : Serving cfg s) (call : Called .tx W s t) : Serving cfg t := by
  have block := h.block.called call
  have unbound := call.unbound
  obtain ⟨_, _, _, _, _, cur, rfl⟩ := call.registers
  exact ⟨block, h.validator, h.read, fun free => congrArg Handle.cur (unbound free) |>.trans (h.closed free)⟩

theorem TransferInv.push (h : TransferInv s) (f : List Byte) : TransferInv (s.push f) :=
  h.congr rfl rfl rfl rfl fun _ ready => ready

theorem Called.tx_loaded {W : Device → Nat → Prop} (call : Called .tx W s t) (c : Cat) :
    t.loaded c = s.loaded c := by
  obtain ⟨_, _, _, _, _, _, rfl⟩ := call.registers
  cases c <;> rfl

/-- A call that leaves SB_TX as it is leaves the transfer as it is. -/
theorem TransferInv.called {W : Device → Nat → Prop} (h : TransferInv s) (call : Called .tx W s t)
    (handle : t.sbTx = s.sbTx) : TransferInv t := by
  have loaded := call.tx_loaded
  obtain ⟨_, _, _, _, _, _, rfl⟩ := call.registers
  exact h.congr rfl rfl rfl handle fun c ready => (loaded c).trans ready

/-! ### How a frame's rule stops -/

/-- An error that changes nothing (60_exceptions.md R303, R307). -/
def harmless : Err → Prop
  | .framing _ | .state _ => True
  | _ => False

theorem frameStop_harmless {e : Err} (he : harmless e) (h : Serving cfg s) (transfer : TransferInv s) :
    frameStop cfg (.raised e) s := by
  cases e with
  | framing | state => exact ⟨h, transfer⟩
  | _ => exact he.elim

/-- An error of class Sequence closes the session and keeps the context (60_exceptions.md R304). -/
theorem frameStop_sequence (c : SequenceCause) (h : Serving cfg s) (transfer : TransferInv s) :
    frameStop cfg (.raised (.sequence c)) s :=
  ⟨h, transfer.congr rfl rfl rfl rfl fun _ ready => ready⟩

/-- An error that resets the context (60_exceptions.md R305, R306, R308). -/
def resets : Err → Prop
  | .crcMismatch _ _ | .storage _ | .transport _ => True
  | _ => False

theorem frameStop_resets {e : Err} (he : resets e) (h : Serving cfg s) : frameStop cfg (.raised e) s := by
  have transfer := transferInv_contextReset h.closed
  refine ⟨h, ?_⟩
  cases e with
  | crcMismatch | storage => exact transfer.congr rfl rfl rfl rfl fun _ ready => ready
  | transport c => cases c <;> exact transfer.congr rfl rfl rfl rfl fun _ ready => ready
  | framing | sequence | state => exact he.elim

theorem Broke.frameStop {W : Device → Nat → Prop} {e : Stop} (broke : Broke .tx W s e t) (h : Serving cfg s)
    (fits : s.sbTx.bound = true → s.sbTx.area.fits = true) : frameStop cfg e t := by
  cases e with
  | raised => exact broke.elim
  | powerLost => exact h.block.called broke.1
  | fault =>
    obtain ⟨-, bound, outside⟩ := broke
    simp only [State.handle_tx] at bound outside
    simp [fits bound] at outside

theorem Lost.frameStop {e : Stop} (lost : Lost .tx s e t) (h : Serving cfg s) : frameStop cfg e t := by
  cases e with
  | powerLost => exact h.block.called lost.1
  | _ => exact lost.elim

theorem TransferInv.fits (h : TransferInv s) (bound : s.sbTx.bound = true) : s.sbTx.area.fits = true :=
  (h.transferArea bound).1

theorem ends_emit_serving (f : List Byte) (h : Serving cfg s) {Q : Unit → State → Prop} (sent : Q () (s.push f)) :
    Ends (emit f) s Q (frameStop cfg) :=
  ends_emit f sent (frameStop_resets trivial h.dropPush)

/-! ### The read-back emitter (43_session_driver.md R240, R241) -/

/-- A read-back about to send its next block, or its terminating command. -/
structure ReadingBack (s : State) : Prop where
  direction : s.dir = .read
  inProgress : s.tc.inProgress = true
  target : ∃ t, s.tc.targetId = some t ∧ s.loaded t.cat = true
  unfinished : s.tc.crcReceived = false
  bound : s.sbTx.bound = true
  fits : s.sbTx.area.fits = true
  cursor : s.sbTx.cur = 0
  wholeBlocks : s.rbOff.toNat < s.tc.expectedSize.toNat → s.rbOff.toNat % 512 = 0
  overflown : 0xFFFF < s.rbOff.toNat / 512 → TransferInv s

theorem TransferInv.readingBack (h : TransferInv s) (busy : s.tc.inProgress = true) (read : s.dir = .read) :
    ReadingBack s where
  direction := read
  inProgress := busy
  target := h.target busy
  unfinished := by
    by_contra received
    have := h.finalising (by simpa using received)
    simp [read] at this
  bound := h.transferHandle.trans busy
  fits := h.fits (h.transferHandle.trans busy)
  cursor := (h.offset read).2.1
  wholeBlocks := fun more => by
    have := (h.offset read).2.2.1
    omega
  overflown := fun _ => h

/-- The transfer after a block of `n` bytes is sent (43_session_driver.md R240). -/
theorem ReadingBack.sent (h : ReadingBack s) {n : Nat} (more : s.rbOff.toNat < s.tc.expectedSize.toNat)
    (size : n = min 512 (s.tc.expectedSize.toNat - s.rbOff.toNat)) (number : s.rbOff.toNat / 512 ≤ 0xFFFF)
    (inside : s.rbOff.toNat + n ≤ s.sbTx.area.size.toNat) :
    TransferInv { s with
      tc := { s.tc with lastBlock := BitVec.ofNat 16 (s.rbOff.toNat / 512) }
      rbOff := s.rbOff + BitVec.ofNat 32 n } where
  direction := by simp [h.direction, h.inProgress]
  emptyContext := by simp [h.inProgress]
  target := fun _ => h.target
  transferHandle := h.bound.trans h.inProgress.symm
  transferArea := fun _ => ⟨h.fits, by simp [h.cursor]⟩
  transferCursor := fun _ => h.cursor
  offsetAtRest := fun other => absurd h.direction other
  offset := fun _ => by
    have whole := h.wholeBlocks more
    have bound := s.tc.expectedSize.isLt
    have block : (BitVec.ofNat 16 (s.rbOff.toNat / 512)).toNat = s.rbOff.toNat / 512 := by
      rw [BitVec.toNat_ofNat]
      omega
    have offset : (s.rbOff + BitVec.ofNat 32 n).toNat = s.rbOff.toNat + n := by
      rw [BitVec.toNat_add, BitVec.toNat_ofNat]
      omega
    simp only [block, offset, h.cursor, true_and]
    omega
  finalising := by simp [h.unfinished]
  written := by simp [h.direction]

theorem serves_readbackEnd (h : Serving cfg s) (reading : ReadingBack s) : Serves cfg readbackEnd s := by
  obtain ⟨target, held, -⟩ := reading.target
  simp only [readbackEnd, ends_bind, ends_get, ends_modify, ends_pure]
  rw [ends_of_ok (by rw [run_targetOf, held])]
  exact ends_emit_serving _ h ⟨(h.push _).contextReset, transferInv_contextReset (h.push _).closed⟩

theorem ReadingBack.called {W : Device → Nat → Prop} (h : ReadingBack s) (call : Called .tx W s t)
    (handle : t.sbTx = s.sbTx) : ReadingBack t := by
  have transfer := fun past => (h.overflown past).called call handle
  obtain ⟨_, _, _, _, _, _, rfl⟩ := call.registers
  exact
    { direction := h.direction, inProgress := h.inProgress, target := h.target, unfinished := h.unfinished
      bound := h.bound, fits := h.fits, cursor := handle ▸ h.cursor, wholeBlocks := h.wholeBlocks
      overflown := transfer }

theorem ReadingBack.push (h : ReadingBack s) (f : List Byte) : ReadingBack (s.push f) :=
  { h with overflown := fun past => (h.overflown past).push f }

theorem serves_rbEmit (h : Serving cfg s) (reading : ReadingBack s) : Serves cfg rbEmit s := by
  simp only [rbEmit, ends_bind, ends_get]
  by_cases done : s.tc.expectedSize.toNat ≤ s.rbOff.toNat
  · rw [if_pos done]
    exact serves_readbackEnd h reading
  · rw [if_neg done, ends_bind, ends_require]
    refine ⟨fun number => ?_, fun overflow =>
      frameStop_sequence _ h (reading.overflown (Nat.lt_of_not_le overflow))⟩
    refine (ends_bind ..).mpr ((ends_memRead .tx s _ _).mono (fun bytes t ⟨call, handle, read⟩ => ?_)
      fun _ _ broke => broke.frameStop h fun _ => reading.fits)
    have served := h.called call
    have reading' := reading.called call handle
    cases bytes with
    | none => exact frameStop_resets trivial served
    | some p =>
      obtain ⟨-, inside⟩ := read rfl
      obtain ⟨_, _, _, _, _, _, rfl⟩ := call.registers
      simp only [ends_bind, ends_modify, ends_pure]
      refine ends_emit_serving _ served ⟨(served.push _).setTransfer _ _ _, ?_⟩
      exact (reading'.push _).sent (Nat.lt_of_not_le done) rfl number inside

/-! ### Requests (41_frame_parser.md R165, R170) -/

/-- The tests of a request: each error changes nothing, and a target that passes is ready. -/
theorem ends_requestTarget (name : List Byte) (s : State) : Ends (requestTarget name) s
    (fun target t => t = s ∧ s.requests name target)
    (fun e t => t = s ∧ ∃ err, e = .raised err ∧ harmless err) := by
  unfold Ends
  rw [run_requestTarget]
  cases named : targetNamed s.cfg name with
  | none => exact ⟨rfl, _, rfl, trivial⟩
  | some target =>
    by_cases idle : s.tc.inProgress = false
    · by_cases ready : s.loaded target.cat = true
      · simp only [idle, ready, if_true, true_and]
        exact ⟨named, idle, ready⟩
      · simp [idle, ready, harmless]
    · simp [idle, harmless]

/-- A request under way: SB_TX bound to the bank, the context still empty. -/
structure Opening (cfg : Config) (target : Target) (A : Area) (s : State) : Prop where
  serving : Serving cfg s
  idle : s.tc = TransferContext.blank
  offset : s.rbOff = 0
  loaded : s.loaded target.cat = true
  handle : s.sbTx = { bound := true, area := A, cur := 0 }

theorem Opening.called {target : Target} {A : Area} {W : Device → Nat → Prop} (h : Opening cfg target A s)
    (call : Called .tx W s t) (handle : t.sbTx = s.sbTx) : Opening cfg target A t := by
  have serving := h.serving.called call
  have loaded := (call.tx_loaded _).trans h.loaded
  obtain ⟨_, _, _, _, _, _, rfl⟩ := call.registers
  exact ⟨serving, h.idle, h.offset, loaded, handle.trans h.handle⟩

/-- A storage call of a request that answers false is an error that resets the context. -/
theorem ends_requestCall {call : Act Bool} {cause : StorageCause} {Q : Unit → State → Prop}
    (h : Ends call s (fun ok t => Serving cfg t ∧ (ok = true → Q () t)) (frameStop cfg)) :
    Ends (requestCall call cause) s Q (frameStop cfg) := by
  refine (ends_bind ..).mpr (h.mono (fun ok t ⟨served, done⟩ => ?_) fun _ _ stop => stop)
  cases ok with
  | true => exact done rfl
  | false => exact frameStop_resets trivial (served.setTx fun _ => rfl)

theorem ends_request_memInit {target : Target} {A : Area} (h : Opening cfg target A s) :
    Ends (requestCall (memInit .tx) .init) s (fun _ t => Opening cfg target A t ∧ A.fits = true)
      (frameStop cfg) := by
  refine ends_requestCall ((ends_memInit .tx s).mono (fun ok t ⟨call, handle, ready⟩ => ?_)
    fun _ _ lost => lost.frameStop h.serving)
  refine ⟨h.serving.called call, fun yes => ⟨h.called call handle, ?_⟩⟩
  have fits := (ready yes).2
  rwa [State.handle_tx, h.handle] at fits

theorem ends_request_memFlush {target : Target} {A : Area} (h : Opening cfg target A s) :
    Ends (requestCall (do pure (← memFlush .tx).isSome) .flush) s (fun _ t => Opening cfg target A t)
      (frameStop cfg) :=
  ends_requestCall ((ends_bind ..).mpr ((ends_memFlush .tx s).mono
    (fun _ _ ⟨call, handle⟩ => ⟨h.serving.called call, fun _ => h.called call handle⟩)
    fun _ _ lost => lost.frameStop h.serving))

theorem ends_request_memErase {target : Target} {A : Area} (h : Opening cfg target A s) (fits : A.fits = true) :
    Ends (requestCall (memErase .tx) .erase) s (fun _ t => Opening cfg target A t) (frameStop cfg) := by
  refine ends_requestCall ((ends_memErase .tx s).mono (fun ok t ⟨call, done⟩ => ?_)
    fun _ _ broke => broke.frameStop h.serving fun _ => by rwa [h.handle])
  refine ⟨h.serving.called call, fun yes => h.called call ?_⟩
  rw [← State.handle_tx, (done yes).2, State.handle_tx, h.handle]

/-- A transfer just opened in the write direction (41_frame_parser.md R170). -/
theorem Opening.writing {target : Target} {A : Area} (h : Opening cfg target A s) (fits : A.fits = true) :
    TransferInv { s with
      tc := { s.tc with inProgress := true, targetId := some target, lastBlock := 0, crcReceived := false }
      dir := .write } where
  direction := by simp
  emptyContext := by simp
  target := fun _ => ⟨target, rfl, h.loaded⟩
  transferHandle := by simp [h.handle]
  transferArea := by simp [h.handle, fits]
  transferCursor := by simp [h.handle]
  offsetAtRest := fun _ => h.offset
  offset := by simp
  finalising := by simp
  written := by simp [h.idle, h.handle, TransferContext.blank]

/-- A read-back just opened (41_frame_parser.md R165): no block is sent yet. -/
theorem Opening.readingBack {target : Target} {A : Area} (h : Opening cfg target A s) (fits : A.fits = true)
    (length : Word) :
    ReadingBack { s with
      tc := { inProgress := true, targetId := some target, lastBlock := 0, expectedSize := length
              crcReceived := false }
      dir := .read
      rbOff := 0 } where
  direction := rfl
  inProgress := rfl
  target := ⟨target, rfl, h.loaded⟩
  unfinished := rfl
  bound := by simp [h.handle]
  fits := by simp [h.handle, fits]
  cursor := by simp [h.handle]
  wholeBlocks := by simp
  overflown := by simp

/-- The bind that begins a request whose tests passed. -/
theorem opening_memBind (h : Serving cfg s) (transfer : TransferInv s) {name : List Byte} {target : Target}
    (request : s.requests name target) (A : Area) :
    Opening cfg target A (s.setHandle .tx { bound := true, area := A, cur := 0 }) := by
  obtain ⟨-, idle, loaded⟩ := request
  have noDir := transfer.direction.mpr idle
  exact
    { serving := h.setTx (by simp), idle := transfer.emptyContext idle
      offset := transfer.offsetAtRest (by simp [noDir]), loaded := by simpa using loaded, handle := rfl }

theorem ends_of_requestTarget {β : Type} (h : Serving cfg s) (transfer : TransferInv s) {name : List Byte}
    {f : Target → Act β} {Q : β → State → Prop}
    (accepted : ∀ target, s.requests name target → Ends (f target) s Q (frameStop cfg)) :
    Ends (requestTarget name >>= f) s Q (frameStop cfg) := by
  refine (ends_bind ..).mpr ((ends_requestTarget name s).mono ?_ ?_)
  · rintro target _ ⟨rfl, request⟩
    exact accepted target request
  · rintro _ _ ⟨rfl, e, rfl, he⟩
    exact frameStop_harmless he h transfer

theorem serves_readRequestRule (length : Word) (name : List Byte) (h : Serving cfg s) (transfer : TransferInv s) :
    Serves cfg (readRequestRule length name) s := by
  refine ends_of_requestTarget h transfer fun target request => ?_
  simp only [ends_bind, ends_get, ends_memBind, ends_modify]
  refine (ends_request_memInit (opening_memBind h transfer request _)).mono (fun _ t ⟨opening, fits⟩ => ?_)
    fun _ _ stop => stop
  exact serves_rbEmit (opening.serving.setTransfer _ _ _) (opening.readingBack fits length)

/-- The end of a WriteRequest: the transfer opened and Ack 0 emitted (41_frame_parser.md R170). -/
theorem Opening.serves_acknowledged {target : Target} {A : Area} (h : Opening cfg target A s) (fits : A.fits = true)
    (f : List Byte) :
    Serves cfg (do
      modify fun s =>
        { s with
          tc := { s.tc with inProgress := true, targetId := some target, lastBlock := 0, crcReceived := false }
          dir := .write }
      emit f
      pure .proceed : Act StepOutcome) s := by
  have served := h.serving.setTransfer
    { s.tc with inProgress := true, targetId := some target, lastBlock := 0, crcReceived := false } .write s.rbOff
  simp only [ends_bind, ends_modify, ends_pure]
  exact ends_emit_serving f served ⟨served.push f, (h.writing fits).push f⟩

theorem serves_writeRequestRule (name : List Byte) (h : Serving cfg s) (transfer : TransferInv s) :
    Serves cfg (writeRequestRule name) s := by
  refine ends_of_requestTarget h transfer fun target request => ?_
  rw [ends_bind, ends_get, ends_bind, ends_memBind, ends_bind]
  refine (ends_request_memInit (opening_memBind h transfer request _)).mono (fun _ t ⟨opening, fits⟩ => ?_)
    fun _ _ stop => stop
  rw [ends_bind]
  refine (ends_request_memFlush opening).mono (fun _ u opening => ?_) fun _ _ stop => stop
  by_cases erases : erasesOnOpen s.cfg target.cat = true
  · rw [if_pos erases, ends_bind]
    exact (ends_request_memErase opening fits).mono (fun _ v opening => opening.serves_acknowledged fits _)
      fun _ _ stop => stop
  · rw [if_neg erases]
    exact opening.serves_acknowledged fits _

/-! ### Data and Ack (41_frame_parser.md R175, R180) -/

theorem TransferInv.writing (h : TransferInv s) (busy : s.tc.inProgress = true) (notRead : s.dir ≠ .read) :
    s.dir = .write := by
  have notIdle := h.direction
  cases dir : s.dir <;> simp_all

/-- The transfer after a block of `n` bytes is written (41_frame_parser.md R175). -/
theorem TransferInv.blockWritten (h : TransferInv s) (busy : s.tc.inProgress = true) (write : s.dir = .write)
    {block : Half} {n : Nat} (number : block.toNat = s.tc.lastBlock.toNat + 1) (short : n ≤ 512)
    (room : s.sbTx.cur.toNat + n ≤ s.sbTx.area.size.toNat) :
    TransferInv { s with
      tc := { s.tc with lastBlock := block }
      sbTx := { s.sbTx with cur := s.sbTx.cur + BitVec.ofNat 32 n } } := by
  have bound : s.sbTx.bound = true := h.transferHandle.trans busy
  have cur : (s.sbTx.cur + BitVec.ofNat 32 n).toNat = s.sbTx.cur.toNat + n := by
    have := s.sbTx.area.size.isLt
    rw [BitVec.toNat_add, BitVec.toNat_ofNat]
    omega
  exact
    { direction := h.direction
      emptyContext := by simp [busy]
      target := h.target
      transferHandle := h.transferHandle
      transferArea := fun _ => ⟨h.fits bound, by simpa only [cur] using room⟩
      transferCursor := by simp [bound]
      offsetAtRest := h.offsetAtRest
      offset := by simp [write]
      finalising := h.finalising
      written := fun _ => by
        obtain ⟨empty, before⟩ := h.written write
        refine ⟨empty, ?_⟩
        simp only [cur, number]
        omega }

theorem serves_dataRule {block : Half} {payload : List Byte} (h : Serving cfg s) (transfer : TransferInv s)
    (notRead : s.dir ≠ .read) (short : payload.length ≤ 512) :
    Serves cfg (dataRule block payload) s := by
  simp only [dataRule, ends_bind, ends_get, ends_require, ends_modify, ends_pure]
  refine ⟨fun busy => ⟨fun number => ?_, fun _ => frameStop_sequence _ h transfer⟩,
    fun _ => frameStop_harmless trivial h transfer⟩
  refine (ends_memWrite .tx s payload).mono (fun ok t ⟨call, done⟩ => ?_)
    fun _ _ broke => broke.frameStop h transfer.fits
  have served := h.called call
  refine ⟨fun written => ?_, fun _ => frameStop_resets trivial served⟩
  obtain ⟨-, room, handle⟩ := done written
  have block := transfer.blockWritten busy (transfer.writing busy notRead) number short room
  have loaded := call.tx_loaded
  obtain ⟨_, _, _, _, _, _, rfl⟩ := call.registers
  refine ends_emit_serving _ (served.setTransfer _ _ _) ⟨(served.setTransfer _ _ _).push _, ?_⟩
  exact (block.congr (by rfl) rfl rfl handle fun c ready => (loaded c).trans ready)

theorem serves_ackRule (block : Half) (h : Serving cfg s) (transfer : TransferInv s) :
    Serves cfg (ackRule block) s := by
  simp only [ackRule, ends_bind, ends_get, ends_require]
  refine ⟨fun busy => ⟨fun _ => ?_, fun _ => frameStop_sequence _ h transfer⟩,
    fun _ => frameStop_harmless trivial h transfer⟩
  by_cases read : s.dir = .read
  · rw [if_pos read]
    exact serves_rbEmit h (transfer.readingBack busy read)
  · rw [if_neg read]
    exact ⟨h, transfer⟩

/-! ### Errors and commands (41_frame_parser.md R185; 42_command_dispatch.md R200 to R205) -/

theorem serves_errorRule (code : Half) (h : Serving cfg s) (transfer : TransferInv s) :
    Serves cfg (errorRule code) s := by
  simp only [errorRule, ends_bind, ends_get, ends_require]
  refine ⟨fun _ => ?_, fun _ => frameStop_harmless trivial h transfer⟩
  by_cases read : s.dir = .read
  · rw [if_pos read]
    exact ⟨h.contextReset, transferInv_contextReset h.closed⟩
  · rw [if_neg read]
    exact ⟨h, transfer⟩

theorem serves_terminalRule (code : Half) (h : Serving cfg s) :
    Serves cfg (terminalRule code) s :=
  ⟨h.contextReset.closeSession, (transferInv_contextReset h.closed).congr rfl rfl rfl rfl fun _ ready => ready⟩

theorem desc_setDesc (ctx : BootContext) (b b' : Bank) (d : Descriptor) :
    (ctx.setDesc b d).desc b' = if b = b' then d else ctx.desc b' := by
  cases b <;> cases b' <;> rfl

theorem plainContext.setDesc {c : Cat} {ctx : BootContext} (plain : plainContext c ctx) (b : Bank) {d : Descriptor}
    (app : c = .app → d.uploadedSize = 0 ∧ d.uploadedCrc = 0) : plainContext c (ctx.setDesc b d) := by
  rintro rfl b'
  rw [desc_setDesc]
  split
  · exact app rfl
  · exact plain rfl b'

/-- The descriptor a finalising CRC writes (42_command_dispatch.md R205) leaves an application descriptor's upload
fields at 0 (10_state.md R34). -/
theorem Serving.finalised (h : Serving cfg s) {target : Target} {d : Descriptor}
    (app : target.cat = .app → d.uploadedSize = 0 ∧ d.uploadedCrc = 0) (cfg' : Config) (v n received : Word) :
    Serving cfg
      (s.setDesc target.cat target.bank (finalised cfg' target.cat d v n received)).markCrcReceived := by
  have plain := (h.block.plainContext target.cat).setDesc target.bank
    (d := Machine.finalised cfg' target.cat d v n received) fun cat => by
      rw [cat]
      exact app cat
  have block := h.block.setBc plain
  refine h.congr (fun _ => block.congr rfl (fun _ => rfl) rfl block.emptyReads block.forced block.appFields) ?_ ?_ ?_
  all_goals cases target <;> rfl

/-- Only a write transfer receives its finalising CRC (42_command_dispatch.md R205). -/
theorem TransferInv.finalised (h : TransferInv s) (busy : s.tc.inProgress = true) (write : s.dir = .write)
    (c : Cat) (b : Bank) (d : Descriptor) : TransferInv (s.setDesc c b d).markCrcReceived := by
  have received : TransferInv s.markCrcReceived :=
    { h with
      emptyContext := fun idle => absurd (busy.symm.trans idle) nofun
      finalising := fun _ => write }
  cases c <;> exact received.congr rfl rfl rfl rfl fun e ready => by cases e <;> exact ready

theorem serves_crcCommandRule (received : Word) (h : Serving cfg s) (transfer : TransferInv s)
    (notRead : s.dir ≠ .read) :
    Serves cfg (crcCommandRule received) s := by
  simp only [crcCommandRule, ends_bind, ends_get, ends_require]
  refine ⟨fun busy => ?_, fun _ => frameStop_harmless trivial h transfer⟩
  obtain ⟨target, held, loaded⟩ := transfer.target busy
  rw [ends_of_ok (by rw [run_targetOf, held]), ends_of_ok (by rw [run_descriptorOf, if_pos loaded])]
  have app := fun cat => h.block.plainContext target.cat cat target.bank
  refine (ends_memFlush .tx s).mono (fun n t ⟨flush, handle⟩ => ?_) fun _ _ lost => lost.frameStop h
  have served := h.called flush
  have transferred := transfer.called flush handle
  cases n with
  | none => exact frameStop_resets trivial served
  | some n =>
    refine (ends_bind ..).mpr ((ends_regionCrc .tx t _).mono (fun v u ⟨read, handle⟩ => ?_)
      fun _ _ broke => broke.frameStop served transferred.fits)
    have served := served.called read
    have transferred := transferred.called read handle
    cases v with
    | none => exact frameStop_resets trivial served
    | some v =>
      simp only [ends_bind, ends_require, ends_modify, ends_pure]
      refine ⟨fun _ => ⟨served.finalised app _ _ _ _, ?_⟩, fun _ => frameStop_resets trivial served⟩
      obtain ⟨_, _, _, _, _, _, rfl⟩ := flush.registers
      obtain ⟨_, _, _, _, _, _, rfl⟩ := read.registers
      exact transferred.finalised busy (transfer.writing busy notRead) _ _ _

theorem serves_commandRule (code : Half) (tail : List Byte) (h : Serving cfg s) (transfer : TransferInv s)
    (notRead : s.dir ≠ .read) :
    Serves cfg (commandRule code tail) s := by
  cases command : commandOf s.cfg code with
  | none =>
    exact (ends_of_error (run_commandRule_none command)).mpr (frameStop_harmless trivial h transfer)
  | some k =>
    by_cases crc : k = .crc
    · subst crc
      simp only [Ends, run_commandRule_crc command]
      by_cases long : 4 ≤ tail.length
      · rw [if_pos long]
        exact serves_crcCommandRule (be32 tail 0) h transfer notRead
      · rw [if_neg long]
        exact frameStop_harmless trivial h transfer
    · simp only [Ends, run_commandRule_terminal command crc]
      exact serves_terminalRule code h

/-! ### Every frame -/

/-- A Data frame's payload is at most 512 bytes (30_encoding.md R104, R110); no other operand is bounded here. -/
def shortPayload : Frame → Prop
  | .data _ payload => payload.length ≤ 512
  | _ => True

theorem serves_frameRule {f : Frame} (short : shortPayload f) (h : Serving cfg s) (transfer : TransferInv s) :
    Serves cfg (frameRule f) s := by
  refine (ends_bind ..).mpr (ends_gate (fun passes => ?_) (frameStop_harmless trivial h transfer))
  have notRead (gated : Kind.gated f.kind = true) : s.dir ≠ .read := fun read => passes ⟨read, gated⟩
  cases f with
  | rrq length name => exact serves_readRequestRule length name h transfer
  | wrq name => exact serves_writeRequestRule name h transfer
  | data block payload => exact serves_dataRule h transfer (notRead rfl) short
  | ack block => exact serves_ackRule block h transfer
  | error code => exact serves_errorRule code h transfer
  | cmd code tail => exact serves_commandRule code tail h transfer (notRead rfl)
  | debug => exact ⟨h, transfer⟩

/-- A frame with no fields changes nothing (60_exceptions.md R303). -/
theorem serves_malformedRule (e : FrameError) (h : Serving cfg s) (transfer : TransferInv s) :
    Serves cfg (malformedRule e) s := by
  have reject {x : Err} (hx : harmless x) := frameStop_harmless hx h transfer
  cases e with
  | size | sentinel | opcode => exact reject trivial
  | kindSize k | noName k =>
    exact (ends_bind ..).mpr (ends_gate (fun _ => reject trivial) (reject trivial))

theorem Serving.clearEmptyReads (h : Serving cfg s) : Serving cfg s.clearEmptyReads :=
  h.congr (fun b => b.congr rfl (fun _ => rfl) rfl nofun b.forced b.appFields) rfl h.read.symm rfl

theorem Serving.takeError (h : Serving cfg s) (e : Err) : Serving cfg (takeError e s) := by
  have ended := h.contextReset.closeSession
  cases e with
  | framing | state => exact h
  | sequence => exact h.closeSession
  | crcMismatch | storage => exact ended
  | transport c =>
    cases c with
    | write => exact ended
    | emptyRead => exact ended.clearEmptyReads

end Frames

/-! ### A frame's step (43_session_driver.md R230) -/

/-- The error reply emits one frame at most (43_session_driver.md R236). -/
theorem errorReply_cases (e : Err) (s : State) :
    errorReply e s = s ∨ errorReply e s = s.dropPush ∨ ∃ f, errorReply e s = s.push f := by
  unfold errorReply
  split
  · exact .inl rfl
  · split
    · exact .inr (.inl rfl)
    · exact .inr (.inr ⟨_, rfl⟩)

theorem inv_finish_errorReply {cfg : Config} {s : State} (h : Serving cfg s) (transfer : TransferInv s) (e : Err) :
    Inv (finish (.error e) (errorReply e s)) ∧ (finish (.error e) (errorReply e s)).cfg = cfg := by
  rcases errorReply_cases e s with same | dropped | ⟨f, sent⟩
  · rw [same]
    exact inv_finish h.block transfer h.validator _
  · rw [dropped]
    exact inv_finish h.dropPush.block (transfer.congr rfl rfl rfl rfl fun _ ready => ready) h.validator _
  · rw [sent]
    exact inv_finish (h.push f).block (transfer.push f) h.validator _

/-- The end of a frame's step: a state of the invariant, never a fault. -/
theorem settleFrame_inv {cfg : Config} {rule : Act StepOutcome} {s : State}
    (ends : Serves cfg rule s) :
    ∃ t, settleFrame (rule s) = .next t ∧ Inv t ∧ t.cfg = cfg := by
  cases result : rule s with
  | ok v u =>
    obtain ⟨served, transfer⟩ := ends.ok result
    exact ⟨_, rfl, inv_finish served.block transfer served.validator v⟩
  | error e u =>
    have stop := ends.error result
    cases e with
    | raised e => exact ⟨_, rfl, inv_finish_errorReply (stop.1.takeError e) stop.2 e⟩
    | powerLost => exact ⟨_, rfl, stop.powerUp⟩
    | fault => exact stop.elim

theorem Inv.serving {s : State} (inv : Inv s) : Serving s.cfg s.clearEmptyReads where
  block := inv.block.congr rfl (fun _ => rfl) rfl nofun inv.forced inv.appFields
  validator := inv.validatorHandle
  read := rfl
  closed := inv.transferCursor

theorem Inv.transfer_clearEmptyReads {s : State} (inv : Inv s) : TransferInv s.clearEmptyReads :=
  inv.transfer.congr rfl rfl rfl rfl fun _ ready => ready

theorem frameStep_inv {rule : Act StepOutcome} {s : State} (inv : Inv s)
    (ends : Serves s.cfg rule s.clearEmptyReads) :
    ∃ t, frameStep rule s = .next t ∧ Inv t ∧ t.cfg = s.cfg := by
  by_cases closed : s.sessionOpen = false
  · exact ⟨_, frameStep_closed closed,
      inv_finish inv.serving.block inv.transfer_clearEmptyReads inv.validatorHandle _⟩
  · rw [frameStep, if_neg closed]
    exact settleFrame_inv ends

/-- The empty read (43_session_driver.md R232): the second one in an open session ends it. -/
theorem emptyReadStep_inv {s : State} (inv : Inv s) : ∃ t, emptyReadStep s = .next t ∧ Inv t ∧ t.cfg = s.cfg := by
  by_cases closed : s.sessionOpen = false
  · exact ⟨_, by rw [emptyReadStep, if_pos closed], inv_finish inv.block inv.transfer inv.validatorHandle _⟩
  · rw [emptyReadStep, if_neg closed]
    by_cases first : s.emptyReads = false
    · have ends : emptyReadRule s = .ok .proceed { s with emptyReads := true } := by
        simp only [emptyReadRule, run_bind, run_get, first, if_true]
        rfl
      have block : BlockInv s.cfg { s with emptyReads := true } :=
        inv.block.congr rfl (fun _ => rfl) rfl (fun _ => by simpa using closed) inv.forced inv.appFields
      have transfer : TransferInv { s with emptyReads := true } :=
        inv.transfer.congr rfl rfl rfl rfl fun _ ready => ready
      exact ⟨_, by rw [ends]; rfl, inv_finish block transfer inv.validatorHandle _⟩
    · have ends : emptyReadRule s = .error (.raised (.transport .emptyRead)) s.clearEmptyReads := by
        simp [emptyReadRule, run_bind, first]
      have stop := frameStop_resets (e := .transport .emptyRead) trivial inv.serving
      exact settleFrame_inv ((ends_of_error ends).mpr stop)

end Sys2Proof.Machine
end

section
/-! Every event in a state of the invariant leads to a state of it (spec/10_state.md R24; spec/30_encoding.md R118,
R125): the rows an event decodes to, and the step of each. -/

namespace Sys2Proof.Machine

/-! ### What decodes -/

/-- The payload of a Data frame that decodes is at most 512 bytes (30_encoding.md R104, R110). -/
theorem shortPayload_of_decodeFrame {B : List Byte} {len : Nat} {f : Frame} (h : decodeFrame B len = .ok f) :
    shortPayload f := by
  unfold decodeFrame at h
  split at h
  · cases h
  · have short : (slice B 4 len).length ≤ 512 := by
      simp only [slice, List.length_drop, List.length_take]
      unfold maxFrame at *
      omega
    split at h
    · cases h
    · split at h
      · cases h
      · split at h
        · cases h
        · unfold decodeFields at h
          split at h
          case h_3 => exact Except.ok.inj h ▸ short
          case h_1 | h_2 =>
            split at h
            · exact Except.ok.inj h ▸ trivial
            · cases h
          all_goals exact Except.ok.inj h ▸ trivial

/-- A frame that decodes is the empty read or the row of its fields (30_encoding.md R118; 43_session_driver.md
R232). -/
theorem decode_frame_cases {cfg : Config} {bytes : List Byte} {i : Instr} (h : decode cfg (.frame bytes) = .ok i) :
    i = .empty ∨ ∃ f, decodeFrame bytes bytes.length = .ok f ∧ i = Instr.ofFrame cfg f := by
  simp only [decode] at h
  split at h
  · exact .inl (Except.ok.inj h).symm
  · split at h
    · exact .inr ⟨_, ‹_›, (Except.ok.inj h).symm⟩
    · cases h

/-- An operation word decodes to a row of the operation port (30_encoding.md R125). -/
theorem isOperation_of_decodeOperation {w : BitVec 48} {buffer : List Byte} {i : Instr}
    (h : decodeOperation w buffer = .ok i) : i.isOperation = true := by
  have row {p : Prop} [Decidable p] {j : Instr} (operation : j.isOperation = true)
      (h : (if p then .ok j else .error .badOperation : Except Reject Instr) = .ok i) : i.isOperation = true := by
    split at h
    · exact Except.ok.inj h ▸ operation
    · cases h
  simp only [decodeOperation] at h
  split at h
  · cases h
  · split at h
    case h_9 =>
      split at h
      · exact row rfl h
      · cases h
    case h_10 => cases h
    all_goals exact row rfl h

/-! ### The step of each row -/

section Rows
variable {s : State} (inv : Inv s)
include inv

theorem exec_ofFrame_inv {f : Frame} (short : shortPayload f) :
    ∃ t, exec (Instr.ofFrame s.cfg f) s = .next t ∧ Inv t ∧ t.cfg = s.cfg := by
  rw [exec_ofFrame]
  exact frameStep_inv inv (serves_frameRule short inv.serving inv.transfer_clearEmptyReads)

theorem execFrameIn_inv (presented : s.framePresented = true) :
    ∃ t, exec .frameIn s = .next t ∧ Inv t ∧ t.cfg = s.cfg := by
  by_cases empty : s.flen = 0
  · rw [execFrameIn_empty presented empty]
    exact emptyReadStep_inv inv
  · rw [execFrameIn_frame presented (by omega)]
    refine frameStep_inv inv ?_
    unfold frontEnd
    split
    · exact serves_frameRule (shortPayload_of_decodeFrame ‹_›) inv.serving inv.transfer_clearEmptyReads
    · exact serves_malformedRule _ inv.serving inv.transfer_clearEmptyReads

theorem execSessionReset_inv : ∃ t, exec .sessionReset s = .next t ∧ Inv t ∧ t.cfg = s.cfg := by
  have reset := inv.serving.contextReset
  have block : BlockInv s.cfg (reopenSession s) :=
    reset.block.congr rfl (fun _ => rfl) rfl nofun inv.forced inv.appFields
  exact ⟨_, rfl, inv_finish block
    ((transferInv_contextReset inv.transferCursor).congr rfl rfl rfl rfl fun _ ready => ready) inv.validatorHandle _⟩

theorem exec_operation_inv {i : Instr} (operation : i.isOperation = true) :
    ∃ t, exec i s = .next t ∧ Inv t ∧ t.cfg = s.cfg := by
  cases i with
  | sessionReset => exact execSessionReset_inv inv
  | load c => exact operationStep_inv inv (runs_loadRule c)
  | validate c b => exact operationStep_inv inv (runs_validateRule c b)
  | swap c => exact operationStep_inv inv (runs_swapRule c)
  | fixCrc c b size => exact operationStep_inv inv (runs_fixCrcRule c b size)
  | commit c => exact operationStep_inv inv (runs_commitRule c)
  | crcRegion c b size => exact operationStep_inv inv (runs_crcRegionRule c b size)
  | crcBuf size buffer => exact operationStep_inv inv (runs_crcBufRule size buffer)
  | setActive c a => exact operationStep_inv inv (runs_setActiveRule c a)
  | _ => cases operation

/-! ### The step of each event -/

theorem Inv.takeEvent (rest : List Event) : Inv { s with inbox := rest } := { inv with }

theorem Inv.takeFront : Inv (takeFront s) := { inv with }

theorem Inv.present (bytes : List Byte) : Inv (present bytes s) :=
  { inv with frameBuffer := by simp [inv.frameBuffer, maxFrame]; omega }

/-- A step in a state of the invariant: it has a next state, which is again one of it, under the same record. -/
theorem step_inv : ∃ t, step s = .next t ∧ Inv t ∧ t.cfg = s.cfg := by
  cases front : s.inbox with
  | nil => exact ⟨s, step_idle front, inv, rfl⟩
  | cons e rest =>
    have taken := inv.takeEvent rest
    cases e with
    | frame bytes =>
      have presented := taken.present bytes
      cases row : decode s.cfg (.frame bytes) with
      | error x =>
        rw [step_malformed front row]
        exact execFrameIn_inv presented rfl
      | ok i =>
        rw [step_frame front row]
        rcases decode_frame_cases row with rfl | ⟨f, fields, rfl⟩
        · exact emptyReadStep_inv presented
        · exact exec_ofFrame_inv presented (shortPayload_of_decodeFrame fields)
    | operation w buffer =>
      cases row : decode s.cfg (.operation w buffer) with
      | error x =>
        rw [step_refusedOperation front row]
        exact ⟨_, rfl, inv_finish taken.block taken.transfer taken.validatorHandle _⟩
      | ok i =>
        rw [step_operation front row]
        exact exec_operation_inv taken (isOperation_of_decodeOperation row)
    | takeFrame => exact ⟨_, step_takeFrame front, taken.takeFront, rfl⟩
    | powerCycle => exact ⟨_, step_powerCycle front, taken.block.powerUp⟩

end Rows

/-- Settles O54: the one next state of a step is the one `step_inv` names. -/
theorem everyStepKeepsInv : Obligations.EveryStepKeepsInv := by
  intro s t inv next
  obtain ⟨u, step, kept⟩ := step_inv inv
  obtain rfl : u = t := Host.Outcome.next.inj (step.symm.trans next)
  exact kept

/-- Settles O55: `step_inv` names a next state. -/
theorem invStepsComplete : Obligations.InvStepsComplete := fun _ inv =>
  let ⟨t, step, _⟩ := step_inv inv
  ⟨t, step⟩

end Sys2Proof.Machine
end

section
/-! What no frame changes, whatever state it meets (spec/60_exceptions.md R317; spec/10_state.md R38;
spec/70_reset_and_hazards.md R345): the registers of the caller, and every byte but those its rule addresses. -/

namespace Sys2Proof.Machine

/-! ### What an action keeps -/

/-- The registers that no frame writes (60_exceptions.md R317 (b), (c); 10_state.md R38). -/
def State.callerPart (s : State) :=
  (s.cfg, s.inbox, s.forceUpdate, s.sbPm, s.fb, s.flen, s.framePresented, fun c => (s.loaded c, s.corrupt c,
    (s.bc c).active, (s.bc c).ownCrc, fun b => ((s.desc c b).startAddr, (s.desc c b).partitionSize)))

/-- From `s` to `t` the caller's registers stay, no tape gains a loss of power, and no byte outside `W`
changes. -/
structure Kept (W : Device → Nat → Prop) (s t : State) : Prop where
  caller : t.callerPart = s.callerPart
  power : s.powerHolds → t.powerHolds
  canonical : (∀ d, Memory.wf (s.store d)) → ∀ d, Memory.wf (t.store d)
  bytes : (∀ d, Memory.wf (s.store d)) → ∀ d a, t.byte d a ≠ s.byte d a → W d a

section Kept
variable {W : Device → Nat → Prop} {s t u : State}

theorem Kept.of_registers (caller : t.callerPart = s.callerPart) (fates : t.storageFates = s.storageFates)
    (store : ∀ d, t.store d = s.store d) : Kept W s t where
  caller := caller
  power := fun h => by
    unfold State.powerHolds
    rwa [fates]
  canonical := fun wf d => store d ▸ wf d
  bytes := fun _ d a change => absurd (by rw [State.byte, store, State.byte]) change

theorem Kept.refl (W : Device → Nat → Prop) (s : State) : Kept W s s := .of_registers rfl rfl fun _ => rfl

theorem Kept.trans (h : Kept W s t) (h' : Kept W t u) : Kept W s u where
  caller := h'.caller.trans h.caller
  power := fun p => h'.power (h.power p)
  canonical := fun wf => h'.canonical (h.canonical wf)
  bytes := fun wf d a change => by
    by_cases same : t.byte d a = s.byte d a
    · exact h'.bytes (h.canonical wf) d a (same ▸ change)
    · exact h.bytes wf d a same

theorem Kept.mono {W' : Device → Nat → Prop} (h : Kept W s t) (sub : ∀ d a, W d a → W' d a) : Kept W' s t :=
  { h with bytes := fun wf d a change => sub d a (h.bytes wf d a change) }

theorem Called.kept (call : Called .tx W s t) : Kept W s t where
  caller := by
    obtain ⟨_, _, _, _, _, _, rfl⟩ := call.registers
    simp only [State.callerPart, Prod.mk.injEq]
    refine ⟨rfl, rfl, rfl, rfl, rfl, rfl, rfl, ?_⟩
    funext c
    cases c <;> rfl
  power := fun h f hf => h f (List.mem_of_mem_tail (call.fates ▸ hf))
  canonical := fun wf d => call.canonical d (wf d)
  bytes := fun wf d => call.bytes d (wf d)

end Kept

/-- How an action that keeps the caller's registers may stop. -/
def KeptStop (W : Device → Nat → Prop) (s : State) (e : Stop) (t : State) : Prop :=
  Kept W s t ∧ (e = .powerLost → ¬ s.powerHolds)

/-- Run from `s`, a frame's rule changes no byte outside `W` and none of the caller's registers. -/
abbrev Keeps (W : Device → Nat → Prop) (rule : Act StepOutcome) (s : State) : Prop :=
  Ends rule s (fun _ t => Kept W s t) (KeptStop W s)

/-- An action changes no byte outside `W`, where it begins with SB_TX at an area of `P`, and SB_TX stays at one. -/
def Limits (P : Area → Prop) (W : Device → Nat → Prop) {α : Type} (x : Act α) : Prop :=
  ∀ s, P s.sbTx.area → Ends x s (fun _ t => Kept W s t ∧ P t.sbTx.area) (KeptStop W s)

section Limits
variable {P : Area → Prop} {W : Device → Nat → Prop} {α β : Type}

theorem limits_bind {x : Act β} {f : β → Act α} (hx : Limits P W x) (hf : ∀ b, Limits P W (f b)) :
    Limits P W (x >>= f) := fun s at_ =>
  (ends_bind x f).mpr ((hx s at_).mono
    (fun b t ⟨kept, there⟩ => (hf b t there).mono (fun _ _ ⟨kept', there'⟩ => ⟨kept.trans kept', there'⟩)
      fun _ _ ⟨kept', power⟩ => ⟨kept.trans kept', fun lost holds => power lost (kept.power holds)⟩)
    fun _ _ stop => stop)

theorem limits_pure (a : α) : Limits P W (pure a) := fun s there => ⟨.refl W s, there⟩

theorem limits_raise (e : Err) : Limits P W (raise e : Act α) := fun s _ => ⟨.refl W s, nofun⟩

theorem limits_get {f : State → Act α} (hf : ∀ s, Limits P W (f s)) : Limits P W (get >>= f) :=
  limits_bind (fun s there => ⟨.refl W s, there⟩) hf

theorem limits_require (p : Prop) [Decidable p] (e : Err) : Limits P W (require p e) := fun s there =>
  (ends_require p e).mpr ⟨fun _ => ⟨.refl W s, there⟩, fun _ => ⟨.refl W s, nofun⟩⟩

theorem limits_valueOf (r : Valueless) (v : Option α) : Limits P W (valueOf r v) := fun s there => by
  cases v with
  | none => exact ⟨.refl W s, nofun⟩
  | some a => exact ⟨.refl W s, there⟩

theorem limits_modify {f : State → State} (kept : ∀ s, Kept W s (f s))
    (area : ∀ s, (f s).sbTx.area = s.sbTx.area) : Limits P W (modify f : Act PUnit) :=
  fun s there => ⟨kept s, area s ▸ there⟩

theorem limits_emit (f : List Byte) : Limits P W (emit f) := fun _ there =>
  ends_emit f ⟨.of_registers rfl rfl fun _ => rfl, there⟩ ⟨.of_registers rfl rfl fun _ => rfl, nofun⟩

theorem Called.tx_area {s t : State} (call : Called .tx W s t) : t.sbTx.area = s.sbTx.area := by
  obtain ⟨_, _, _, _, _, _, rfl⟩ := call.registers
  rfl

theorem keptStop_broke {s t : State} {e : Stop} (broke : Broke .tx W s e t) : KeptStop W s e t := by
  cases e with
  | raised => exact broke.elim
  | powerLost => exact ⟨broke.1.kept, fun _ => broke.2⟩
  | fault => exact ⟨broke.1.kept, nofun⟩

theorem KeptStop.mono {V : Device → Nat → Prop} {s t : State} {e : Stop} (stop : KeptStop V s e t)
    (sub : ∀ d a, V d a → W d a) : KeptStop W s e t := ⟨stop.1.mono sub, stop.2⟩

theorem keptStop_lost {s t : State} {e : Stop} (lost : Lost .tx s e t) : KeptStop W s e t :=
  (keptStop_broke lost.broke).mono fun _ _ => False.elim

/-- A storage call through SB_TX that addresses bytes of `W` only. -/
theorem limits_call {x : Act α} {V : State → Device → Nat → Prop}
    (sub : ∀ s, P s.sbTx.area → ∀ d a, V s d a → W d a)
    (call : ∀ s, Ends x s (fun _ t => Called .tx (V s) s t) (Broke .tx (V s) s)) : Limits P W x := fun s there =>
  (call s).mono (fun _ _ called => ⟨called.kept.mono (sub s there), called.tx_area ▸ there⟩)
    fun _ _ broke => (keptStop_broke broke).mono (sub s there)

/-- A storage call through SB_TX that addresses no byte. -/
theorem limits_reading {x : Act α}
    (call : ∀ s, Ends x s (fun _ t => Called .tx nowhere s t) (Broke .tx nowhere s)) : Limits P W x :=
  limits_call (V := fun _ => nowhere) (fun _ _ _ _ => False.elim) call

theorem limits_memInit : Limits P W (memInit .tx) :=
  limits_reading fun s => (ends_memInit .tx s).mono (fun _ _ done => done.1) fun _ _ lost => lost.broke

theorem limits_memFlush : Limits P W (memFlush .tx) :=
  limits_reading fun s => (ends_memFlush .tx s).mono (fun _ _ done => done.1) fun _ _ lost => lost.broke

theorem limits_memRead (off n : Nat) : Limits P W (memRead .tx off n) :=
  limits_reading fun s => (ends_memRead .tx s off n).mono (fun _ _ done => done.1) fun _ _ stop => stop

theorem limits_memErase (sub : ∀ A, P A → ∀ d a, A.covers d a → W d a) : Limits P W (memErase .tx) :=
  limits_call (V := fun s => (s.handle .tx).erases) (fun _ there d a erased => sub _ there d a erased.2) fun s =>
    (ends_memErase .tx s).mono (fun _ _ done => done.1) fun _ _ stop => stop

/-! ### The rules of the frames -/

theorem Kept.contextReset (s : State) : Kept W s (contextReset s) := .of_registers rfl rfl fun _ => rfl

theorem contextReset_area (s : State) : (contextReset s).sbTx.area = s.sbTx.area := by
  rw [contextReset_sbTx]
  split <;> rfl

theorem limits_contextReset : Limits P W (modify contextReset : Act PUnit) :=
  limits_modify Kept.contextReset contextReset_area

theorem limits_requestTarget (name : List Byte) : Limits P W (requestTarget name) := by
  refine limits_get fun s => ?_
  cases targetNamed s.cfg name with
  | none => exact limits_raise _
  | some t => exact limits_bind (limits_require _ _) fun _ => limits_bind (limits_require _ _) fun _ => limits_pure t

theorem limits_requestCall {call : Act Bool} (h : Limits P W call) (cause : StorageCause) :
    Limits P W (requestCall call cause) := by
  refine limits_bind h fun ok => ?_
  cases ok with
  | true => exact limits_pure _
  | false =>
    exact limits_bind (limits_modify (fun _ => .of_registers rfl rfl fun _ => rfl) fun _ => rfl) fun _ =>
      limits_raise _

theorem limits_readbackEnd : Limits P W readbackEnd :=
  limits_get fun _ => limits_bind (limits_valueOf _ _) fun _ => limits_bind (limits_emit _) fun _ =>
    limits_bind limits_contextReset fun _ => limits_pure _

theorem limits_rbEmit : Limits P W rbEmit := by
  refine limits_get fun s => ?_
  by_cases done : s.tc.expectedSize.toNat ≤ s.rbOff.toNat
  · rw [if_pos done]
    exact limits_readbackEnd
  · rw [if_neg done]
    refine limits_bind (limits_require _ _) fun _ => limits_bind (limits_memRead _ _) fun bytes => ?_
    cases bytes with
    | none => exact limits_raise _
    | some p =>
      exact limits_bind (limits_emit _) fun _ =>
        limits_bind (limits_modify (fun _ => .of_registers rfl rfl fun _ => rfl) fun _ => rfl) fun _ => limits_pure _

theorem limits_readRequestRule (length : Word) (name : List Byte) :
    Limits (fun _ => True) nowhere (readRequestRule length name) :=
  limits_bind (limits_requestTarget name) fun _ => limits_get fun _ =>
    limits_bind (fun _ _ => ⟨.of_registers rfl rfl fun _ => rfl, trivial⟩) fun _ =>
      limits_bind (limits_requestCall limits_memInit _) fun _ =>
        limits_bind (limits_modify (fun _ => .of_registers rfl rfl fun _ => rfl) fun _ => rfl) fun _ => limits_rbEmit

theorem limits_ackRule (block : Half) : Limits P W (ackRule block) := by
  refine limits_get fun s => limits_bind (limits_require _ _) fun _ => limits_bind (limits_require _ _) fun _ => ?_
  by_cases read : s.dir = .read
  · rw [if_pos read]
    exact limits_rbEmit
  · rw [if_neg read]
    exact limits_pure _

theorem limits_errorRule (code : Half) : Limits P W (errorRule code) := by
  refine limits_get fun s => limits_bind (limits_require _ _) fun _ => ?_
  by_cases read : s.dir = .read
  · rw [if_pos read]
    exact limits_bind limits_contextReset fun _ => limits_pure _
  · rw [if_neg read]
    exact limits_bind (limits_pure _) fun _ => limits_pure _

theorem limits_terminalRule (code : Half) : Limits P W (terminalRule code) :=
  limits_bind (limits_modify (fun _ => .of_registers rfl rfl fun _ => rfl) contextReset_area) fun _ => limits_pure _

/-- The descriptor a finalising CRC writes stays where it was (42_command_dispatch.md R205). -/
theorem kept_finalised {s : State} {c : Cat} {b : Bank} {d : Descriptor} (desc : s.desc c b = d) (cfg : Config)
    (v n received : Word) : Kept W s (s.setDesc c b (finalised cfg c d v n received)).markCrcReceived := by
  subst desc
  have fields (e : Cat) (b' : Bank) :
      let t := (s.setDesc c b (finalised cfg c (s.desc c b) v n received)).markCrcReceived
      (t.desc e b').startAddr = (s.desc e b').startAddr ∧
        (t.desc e b').partitionSize = (s.desc e b').partitionSize := by
    cases c <;> cases b <;> cases e <;> cases b' <;> exact ⟨rfl, rfl⟩
  have context (e : Cat) :
      let t := (s.setDesc c b (finalised cfg c (s.desc c b) v n received)).markCrcReceived
      t.loaded e = s.loaded e ∧ t.corrupt e = s.corrupt e ∧ (t.bc e).active = (s.bc e).active ∧
        (t.bc e).ownCrc = (s.bc e).ownCrc := by
    cases c <;> cases b <;> cases e <;> exact ⟨rfl, rfl, rfl, rfl⟩
  refine .of_registers ?_ (by cases c <;> rfl) fun d => by cases c <;> cases d <;> rfl
  simp only [State.callerPart, fields, context]
  cases c <;> rfl

theorem Called.tx_desc {s t : State} (call : Called .tx W s t) (c : Cat) (b : Bank) : t.desc c b = s.desc c b := by
  obtain ⟨_, _, _, _, _, _, rfl⟩ := call.registers
  cases c <;> rfl

theorem KeptStop.after {s t u : State} {e : Stop} (stop : KeptStop W t e u) (kept : Kept W s t) :
    KeptStop W s e u :=
  ⟨kept.trans stop.1, fun lost holds => stop.2 lost (kept.power holds)⟩

theorem limits_crcCommandRule (received : Word) : Limits P nowhere (crcCommandRule received) := by
  intro s there
  simp only [crcCommandRule, ends_bind, ends_get, ends_require]
  refine ⟨fun _ => ?_, fun _ => ⟨.refl _ s, nofun⟩⟩
  cases held : s.tc.targetId with
  | none =>
    rw [ends_of_error (by rw [run_targetOf, held])]
    exact ⟨.refl _ s, nofun⟩
  | some target =>
    rw [ends_of_ok (by rw [run_targetOf, held])]
    by_cases loaded : s.loaded target.cat = true
    · rw [ends_of_ok (by rw [run_descriptorOf, if_pos loaded])]
      refine (ends_memFlush .tx s).mono (fun n t ⟨flush, _⟩ => ?_) fun _ _ lost => keptStop_lost lost
      cases n with
      | none => exact ⟨flush.kept, nofun⟩
      | some n =>
        refine (ends_bind ..).mpr ((ends_regionCrc .tx t _).mono (fun v u ⟨read, _⟩ => ?_)
          fun _ _ broke => (keptStop_broke broke).after flush.kept)
        have kept := flush.kept.trans read.kept
        cases v with
        | none => exact ⟨kept, nofun⟩
        | some v =>
          simp only [ends_bind, ends_require, ends_modify, ends_pure]
          have desc := (read.tx_desc target.cat target.bank).trans (flush.tx_desc _ _)
          refine ⟨fun _ => ⟨kept.trans (kept_finalised desc _ _ _ _), ?_⟩, fun _ => ⟨kept, nofun⟩⟩
          have area := (read.tx_area).trans flush.tx_area
          cases target <;> exact area ▸ there
    · rw [ends_of_error (by rw [run_descriptorOf, if_neg loaded])]
      exact ⟨.refl _ s, nofun⟩

theorem limits_commandRule (code : Half) (tail : List Byte) : Limits P nowhere (commandRule code tail) := by
  intro s there
  cases command : commandOf s.cfg code with
  | none =>
    rw [ends_of_error (run_commandRule_none command)]
    exact ⟨.refl _ s, nofun⟩
  | some k =>
    by_cases crc : k = .crc
    · subst crc
      simp only [Ends, run_commandRule_crc command]
      by_cases long : 4 ≤ tail.length
      · rw [if_pos long]
        exact limits_crcCommandRule (be32 tail 0) s there
      · rw [if_neg long]
        exact ⟨.refl _ s, nofun⟩
    · simp only [Ends, run_commandRule_terminal command crc]
      exact limits_terminalRule code s there

end Limits

/-! ### The two rules that write (41_frame_parser.md R170, R175) -/

/-- The bytes a WriteRequest for `name` may change: those of the bank it names. -/
def State.requestedBytes (s : State) (name : List Byte) (d : Device) (a : Nat) : Prop :=
  ∃ target, s.requests name target ∧ (requestArea s name target).covers d a

/-- A WriteRequest whose tests passed touches the bound area only. -/
theorem limits_openWrite (A : Area) (t : Target) (erases : Prop) [Decidable erases] (f : List Byte) :
    Limits (· = A) A.covers (do
      requestCall (memInit .tx) .init
      requestCall (do pure (← memFlush .tx).isSome) .flush
      if erases then requestCall (memErase .tx) .erase else pure ()
      modify fun s =>
        { s with
          tc := { s.tc with inProgress := true, targetId := some t, lastBlock := 0, crcReceived := false }
          dir := .write }
      emit f
      pure .proceed : Act StepOutcome) := by
  have tail : Limits (· = A) A.covers (do
      modify fun s =>
        { s with
          tc := { s.tc with inProgress := true, targetId := some t, lastBlock := 0, crcReceived := false }
          dir := .write }
      emit f
      pure .proceed : Act StepOutcome) :=
    limits_bind (limits_modify (fun _ => .of_registers rfl rfl fun _ => rfl) fun _ => rfl) fun _ =>
      limits_bind (limits_emit f) fun _ => limits_pure _
  refine limits_bind (limits_requestCall limits_memInit _) fun _ =>
    limits_bind (limits_requestCall (limits_bind limits_memFlush fun _ => limits_pure _) _) fun _ => ?_
  by_cases h : erases
  · rw [if_pos h]
    exact limits_bind (limits_requestCall (limits_memErase fun B same d a covered => same ▸ covered) _) fun _ => tail
  · rw [if_neg h]
    exact tail

theorem keeps_writeRequestRule (name : List Byte) (s : State) :
    Keeps (s.requestedBytes name) (writeRequestRule name) s := by
  refine (ends_bind ..).mpr ((ends_requestTarget name s).mono ?_ ?_)
  · rintro target _ ⟨rfl, request⟩
    rename_i s
    rw [ends_bind, ends_get, ends_bind, ends_memBind]
    have bind : Kept (s.requestedBytes name) s
      (s.setHandle .tx { bound := true, area := requestArea s name target, cur := 0 }) :=
      .of_registers rfl rfl fun _ => rfl
    have covered := fun d a (inside : (requestArea s name target).covers d a) =>
      (⟨target, request, inside⟩ : s.requestedBytes name d a)
    exact (limits_openWrite (requestArea s name target) target _ _ _ rfl).mono
      (fun _ _ kept => bind.trans (kept.1.mono covered))
      fun _ _ stop => (stop.mono covered).after bind
  · rintro _ _ ⟨rfl, e, rfl, -⟩
    exact ⟨.refl _ _, nofun⟩

theorem keeps_dataRule (block : Half) (payload : List Byte) (s : State) :
    Keeps (s.sbTx.writes payload.length) (dataRule block payload) s := by
  simp only [dataRule, ends_bind, ends_get, ends_require, ends_modify, ends_pure]
  refine ⟨fun _ => ⟨fun _ => ?_, fun _ => ⟨.refl _ s, nofun⟩⟩, fun _ => ⟨.refl _ s, nofun⟩⟩
  refine (ends_memWrite .tx s payload).mono (fun ok t ⟨call, _⟩ => ?_) fun _ _ broke => keptStop_broke broke
  refine ⟨fun _ => ?_, fun _ => ⟨call.kept, nofun⟩⟩
  have later {u : State} (h : Kept (s.sbTx.writes payload.length) t u) := call.kept.trans h
  exact ends_emit _ (later (.of_registers rfl rfl fun _ => rfl)) ⟨later (.of_registers rfl rfl fun _ => rfl), nofun⟩

/-! ### A frame's step -/

/-- The bytes a frame's row may change (60_exceptions.md R317 (a)). -/
def frameBytes (s : State) : Instr → Device → Nat → Prop
  | .wrq name => s.requestedBytes name
  | .data _ payload => s.sbTx.writes payload.length
  | _ => nowhere

/-- What a frame's step keeps, power lost or not (60_exceptions.md R317; 70_reset_and_hazards.md R345). -/
structure FrameKept (W : Device → Nat → Prop) (s t : State) : Prop where
  cfg : t.cfg = s.cfg
  inbox : t.inbox = s.inbox
  session : t.sessionOpen = true → s.sessionOpen = true
  caller : s.powerHolds → t.callerPart = s.callerPart
  bytes : (∀ d, Memory.wf (s.store d)) → ∀ d a, t.byte d a ≠ s.byte d a → W d a

theorem takeError_kept (e : Err) (s : State) (W : Device → Nat → Prop) : Kept W s (takeError e s) := by
  cases e with
  | transport c => cases c <;> exact .of_registers rfl rfl fun _ => rfl
  | _ => exact .of_registers rfl rfl fun _ => rfl

theorem errorReply_kept (e : Err) (s : State) (W : Device → Nat → Prop) : Kept W s (errorReply e s) := by
  rcases errorReply_cases e s with h | h | ⟨f, h⟩ <;> rw [h] <;> exact .of_registers rfl rfl fun _ => rfl

theorem frameStep_kept {W : Device → Nat → Prop} {rule : Act StepOutcome} {s t : State}
    (ends : Keeps W rule s.clearEmptyReads)
    (step : frameStep rule s = .next t) : FrameKept W s t := by
  have clear : Kept W s s.clearEmptyReads := .of_registers rfl rfl fun _ => rfl
  have done {u : State} (kept : Kept W s u) (opened : s.sessionOpen = true) (v : StepOutcome) :
      FrameKept W s (finish v u) :=
    { cfg := congrArg (·.1) kept.caller, inbox := congrArg (·.2.1) kept.caller, session := fun _ => opened
      caller := fun _ => kept.caller, bytes := kept.bytes }
  rcases frameStep_cases step with
    ⟨-, rfl⟩ | ⟨opened, ⟨v, u, ran, rfl⟩ | ⟨e, u, ran, rfl⟩ | ⟨u, ran, rfl⟩⟩
  · exact
      { cfg := rfl, inbox := rfl, session := id, caller := fun _ => rfl
        bytes := fun _ d a change => absurd (by cases d <;> rfl) change }
  · exact done (clear.trans (ends.ok ran)) opened v
  · have taken := (clear.trans (ends.error ran).1).trans (takeError_kept e u W)
    exact done (taken.trans (errorReply_kept e _ W)) opened _
  · obtain ⟨kept, power⟩ := ends.error ran
    have kept := clear.trans kept
    exact
      { cfg := congrArg (·.1) kept.caller, inbox := congrArg (·.2.1) kept.caller, session := nofun
        caller := fun holds => absurd (clear.power holds) (power rfl), bytes := kept.bytes }

/-- A rule behind the direction gate keeps what it keeps alone. -/
theorem keeps_gate_bind {W : Device → Nat → Prop} {k : Kind} {rule : Act StepOutcome} {s : State}
    (ends : Keeps W rule s) :
    Keeps W (do gate k; rule) s :=
  (ends_bind ..).mpr (ends_gate (fun _ => ends) ⟨.refl W s, nofun⟩)

theorem frameStep_limits {k : Kind} {rule : Act StepOutcome} {s t : State}
    (limits : Limits (fun _ => True) nowhere rule) (step : frameStep (do gate k; rule) s = .next t) :
    FrameKept nowhere s t :=
  frameStep_kept (keeps_gate_bind ((limits _ trivial).mono (fun _ _ kept => kept.1) fun _ _ stop => stop)) step

/-- What every row of a frame keeps (60_exceptions.md R317). -/
theorem exec_isFrame_kept {s t : State} {i : Instr} (frame : i.isFrame = true) (step : exec i s = .next t) :
    FrameKept (frameBytes s i) s t := by
  cases i with
  | wrq name => exact frameStep_kept (keeps_gate_bind (keeps_writeRequestRule name s.clearEmptyReads)) step
  | data block payload =>
    exact frameStep_kept (keeps_gate_bind (keeps_dataRule block payload s.clearEmptyReads)) step
  | rrq length name => exact frameStep_limits (limits_readRequestRule length name) step
  | ack block => exact frameStep_limits (limits_ackRule block) step
  | error code => exact frameStep_limits (limits_errorRule code) step
  | cmd code tail => exact frameStep_limits (limits_commandRule code tail) step
  | cmdCrc value => exact frameStep_limits (limits_crcCommandRule value) step
  | debug => exact frameStep_limits (limits_pure _) step
  | cmdBoot | cmdReset | cmdSwap | cmdBootInfo | cmdPowerOn | cmdPowerOff | cmdEnd | cmdSpiEnd | cmdTriggerWatchdog
  | cmdEraseSpi | cmdSetBank0 | cmdSetBank1 => exact frameStep_limits (limits_terminalRule _) step
  | _ => cases frame

/-- Settles O56: what every row of a frame keeps, read register by register and byte by byte. -/
theorem frameLimits : Obligations.FrameLimits := by
  intro s t i frame flash spi step
  have kept := exec_isFrame_kept frame step
  have changed := kept.bytes fun d => by cases d <;> [exact flash; exact spi]
  refine ⟨kept.cfg, kept.inbox, kept.session, fun holds => ?_, fun ⟨d, a, change⟩ => ?_, ?_, ?_⟩
  · have caller := kept.caller holds
    simp only [State.callerPart, Prod.mk.injEq] at caller
    obtain ⟨-, -, forced, validator, fb, flen, presented, contexts⟩ := caller
    refine ⟨fun c => ?_, forced, validator, fb, flen, presented⟩
    have context := congrFun contexts c
    simp only [Prod.mk.injEq] at context
    obtain ⟨loaded, corrupt, active, ownCrc, places⟩ := context
    exact ⟨loaded, corrupt, active, ownCrc, fun b => Prod.mk.inj (congrFun places b)⟩
  · have addressed := changed d a change
    cases i with
    | wrq name => exact .inl ⟨name, rfl⟩
    | data block payload => exact .inr ⟨block, payload, rfl⟩
    | _ => exact addressed.elim
  · rintro name rfl d a change
    exact changed d a change
  · rintro block payload rfl d a change
    obtain ⟨⟨bound, inside⟩, low, high⟩ := changed d a change
    exact ⟨bound, inside, low, high⟩

end Sys2Proof.Machine
end

section
/-! The two frames that write, where storage answers (spec/41_frame_parser.md R170, R171, R175; spec/20_memory.md R61,
R65, R66). -/

namespace Sys2Proof.Machine

/-! ### Data (41_frame_parser.md R175) -/

/-- The bytes of the transfer device once a payload is programmed at the cursor (20_memory.md R65, R75). -/
def State.dataWritten (s : State) (payload : List Byte) : Memory :=
  Memory.writeBytes (s.store s.sbTx.area.dev) s.sbTx.cursor
    (Memory.programmed (s.store s.sbTx.area.dev) s.cfg.erasedByte s.sbTx.cursor s.freeCtr payload)

/-- A programmed byte is the one given where the old byte was erased; no byte beside them changes (R65, R75). -/
theorem State.dataWritten_read {s : State} (canonical : Memory.wf (s.store s.sbTx.area.dev)) (payload : List Byte) :
    (∀ a, (a < s.sbTx.cursor ∨ s.sbTx.cursor + payload.length ≤ a) →
      Memory.read (s.dataWritten payload) a = s.byte s.sbTx.area.dev a) ∧
    ∀ i b, payload[i]? = some b → s.byte s.sbTx.area.dev (s.sbTx.cursor + i) = s.cfg.erasedByte →
      Memory.read (s.dataWritten payload) (s.sbTx.cursor + i) = b := by
  constructor
  · intro a outside
    exact Memory.read_writeBytes_outside canonical (by rwa [Memory.programmed_length])
  · intro i b given erased
    refine Memory.read_writeBytes_inside canonical (by omega) ?_
    rw [State.byte] at erased
    rw [Nat.add_sub_cancel_left, Memory.programmed_getElem?, given, Option.map_some, if_pos erased]

/-- The last actions of a Data step: the number kept, the Ack sent. -/
theorem finish_dataWritten (s : State) (d : Device) (a : Nat) (payload f : List Byte) (x : Handle) (block : Half) :
    let u := (s.clearEmptyReads.spendFate.program d a payload).setHandle .tx x
    finish .proceed (State.push { u with tc.lastBlock := block } f) =
      { s.setStore d (Memory.writeBytes (s.store d) a
          (Memory.programmed (s.store d) s.cfg.erasedByte a s.freeCtr payload)) with
        emptyReads := false, storageFates := s.storageFates.tail, freeCtr := s.freeCtr + payload.length, sbTx := x
        tc := { s.tc with lastBlock := block }, txFaults := s.txFaults.tail, txq := s.txq ++ [f]
        outcome := .proceed, crcAcc := none } := by
  cases d <;> rfl

theorem run_dataRule_accepted {s : State} {block : Half} {payload : List Byte} (busy : s.tc.inProgress = true)
    (inOrder : block.toNat = s.tc.lastBlock.toNat + 1) (bound : s.sbTx.bound = true)
    (fits : s.sbTx.area.fits = true) (room : s.sbTx.cur.toNat + payload.length ≤ s.sbTx.area.size.toNat)
    (answers : s.storageAnswers) (sends : s.nextTxFails = false) :
    let u := (s.spendFate.program s.sbTx.area.dev s.sbTx.cursor payload).setHandle .tx
      { s.sbTx with cur := s.sbTx.cur + BitVec.ofNat 32 payload.length }
    dataRule block payload s =
      .ok .proceed (State.push { u with tc.lastBlock := block } (Frame.bytes (.ack block))) := by
  intro u
  have write : memWrite .tx payload s = .ok true u := memWrite_ok answers.fate bound fits room
  have sends : State.nextTxFails { u with tc.lastBlock := block } = false := by
    simpa [State.nextTxFails, u] using sends
  simp only [dataRule, run_bind, run_get, run_require_of busy, run_require_of inOrder, write, run_require_of,
    run_modify, run_emit, sends, run_pure, Bool.false_eq_true, if_false]

/-- Settles O30: the payload is programmed at the cursor and acknowledged. -/
theorem dataAccepted : Obligations.DataAccepted := by
  intro s block payload ⟨opened, passes⟩ busy inOrder bound fits room answers sends canonical
  have run := run_dataRule_accepted (s := s.clearEmptyReads) busy inOrder bound (decide_eq_true fits) room answers sends
  have step := frameStep_ok opened ((run_gate_bind (s := s.clearEmptyReads) passes _).trans run)
  exact ⟨s.storageFates.tail, s.freeCtr + payload.length, s.dataWritten payload,
    step.trans (congrArg Host.Outcome.next (finish_dataWritten ..)), s.dataWritten_read canonical payload⟩

/-! ### WriteRequest (41_frame_parser.md R170, R171) -/

theorem requestCall_ok {call : Act Bool} {s t : State} (ran : call s = .ok true t) (cause : StorageCause) :
    requestCall call cause s = .ok () t := by
  rw [run_requestCall, ran]

theorem requestCall_refused {call : Act Bool} {s t : State} (ran : call s = .ok false t) (cause : StorageCause) :
    requestCall call cause s = .error (.raised (.storage cause)) (t.setHandle .tx (t.handle .tx).close) := by
  rw [run_requestCall, ran]

theorem run_requestTarget_ok {s : State} {name : List Byte} {t : Target} (request : s.requests name t) :
    requestTarget name s = .ok t s := by
  obtain ⟨named, idle, loaded⟩ := request
  simp only [run_requestTarget, named, idle, loaded, if_true]

/-- An area outside the address space is refused by MemInit (20_memory.md R61, R63). -/
theorem memInit_unfit {h : HandleId} {s : State} (completes : s.fate = .completes)
    (unfit : (s.handle h).area.fits = false) : memInit h s = .ok false s.spendFate := by
  simp only [run_memInit, completes, unfit, Bool.and_false]

/-- A device after a WriteRequest for an area of category `c` (41_frame_parser.md R170): the area erased, but for an
auxiliary bank without AUX_ERASE_ON_OPEN. -/
def openedStore (cfg : Config) (c : Cat) (A : Area) (m : Memory) : Memory :=
  if erasesOnOpen cfg c = true then Memory.fill m A.start.toNat A.size.toNat cfg.erasedByte else m

theorem erasesOnOpen_iff (cfg : Config) (c : Cat) :
    erasesOnOpen cfg c = true ↔ c = .app ∨ cfg.auxEraseOnOpen = true := by
  simp [erasesOnOpen]

theorem read_openedStore {m : Memory} (canonical : Memory.wf m) (cfg : Config) (c : Cat) (A : Area) (a : Nat) :
    Memory.read (openedStore cfg c A m) a =
      if A.covers A.dev a ∧ (c = .app ∨ cfg.auxEraseOnOpen = true) then cfg.erasedByte else Memory.read m a := by
  unfold openedStore
  by_cases erases : erasesOnOpen cfg c = true
  · rw [if_pos erases, Memory.read_fill canonical]
    simp [(erasesOnOpen_iff cfg c).mp erases, Area.covers]
  · rw [if_neg erases, if_neg fun both => erases ((erasesOnOpen_iff cfg c).mpr both.2)]

/-- The erasing part of a WriteRequest, once its area is bound, tried and flushed, and what runs after it. -/
theorem run_openErase {s : State} (answers : s.storageAnswers) (c : Cat) {A : Area} (fits : A.fits = true)
    (rest : Unit → Act StepOutcome) :
    let x : Handle := { bound := true, area := A, cur := 0 }
    ∃ fates, (if erasesOnOpen s.cfg c then requestCall (memErase .tx) .erase >>= rest else rest ())
        (s.spendFate.spendFate.setHandle .tx x) =
      rest () { s.setStore A.dev (openedStore s.cfg c A (s.store A.dev)) with storageFates := fates, sbTx := x } := by
  intro x
  by_cases erases : erasesOnOpen s.cfg c = true
  · refine ⟨s.storageFates.tail.tail.tail, ?_⟩
    have erase := memErase_ok (h := .tx) (s := s.spendFate.spendFate.setHandle .tx x)
      answers.spendFate.spendFate.fate rfl fits
    rw [if_pos erases, run_bind_ok (requestCall_ok erase _), openedStore, if_pos erases]
    obtain ⟨name, d, start, size⟩ := A
    cases d <;> rfl
  · refine ⟨s.storageFates.tail.tail, ?_⟩
    rw [if_neg erases, openedStore, if_neg erases]
    cases A.dev <;> rfl

/-- A frame that is rejected with no error reply (60_exceptions.md R300; 43_session_driver.md R236). -/
theorem frameStep_error_silent {rule : Act StepOutcome} {s t : State} {e : Err} (opened : s.sessionOpen = true)
    (run : rule s.clearEmptyReads = .error (.raised e) t) (silent : (takeError e t).cfg.errorReply = .none) :
    frameStep rule s = .next (finish (.error e) (takeError e t)) := by
  rw [frameStep_error opened run, errorReply_of_none silent]

section WriteRequest
variable {s : State} {name : List Byte} {t : Target}

/-- A request that binds an area outside the address space ends at MemInit (20_memory.md R61). -/
theorem run_writeRequestRule_unfit (request : s.requests name t) (answers : s.storageAnswers)
    (unfit : (requestArea s name t).fits = false) :
    writeRequestRule name s = .error (.raised (.storage .init))
      (s.spendFate.setHandle .tx { s.boundTx name t with bound := false }) := by
  have init : memInit .tx (s.setHandle .tx (s.boundTx name t)) =
      .ok false (s.spendFate.setHandle .tx (s.boundTx name t)) :=
    memInit_unfit answers.fate unfit
  calc writeRequestRule name s
    _ = _ := run_bind_ok (run_requestTarget_ok request)
    _ = _ := run_bind_ok (run_get s)
    _ = _ := run_bind_ok (run_memBind ..)
    _ = _ := run_bind_error (requestCall_refused init _)

/-- What a WriteRequest leaves before its Ack is sent: the transfer to `t` open on the handle `x`, and `m` on the
device of its bank. -/
def State.openedFor (s : State) (t : Target) (x : Handle) (d : Device) (m : Memory) (fates : List CallFate) : State :=
  let u := s.setStore d m
  { u with
    storageFates := fates
    sbTx := x
    tc := { u.tc with inProgress := true, targetId := some t, lastBlock := 0, crcReceived := false }
    dir := .write }

@[simp] theorem State.openedFor_txFaults (s : State) (t : Target) (x : Handle) (d : Device) (m : Memory)
    (fates : List CallFate) : (s.openedFor t x d m fates).txFaults = s.txFaults :=
  State.setStore_txFaults ..

/-- The last actions of a WriteRequest step: the Ack sent, the outcome written. -/
theorem finish_openedFor (s : State) (t : Target) (x : Handle) (d : Device) (m : Memory) (fates : List CallFate)
    (f : List Byte) :
    finish .proceed ((s.clearEmptyReads.openedFor t x d m fates).push f) =
      { s.setStore d m with
        emptyReads := false, storageFates := fates, sbTx := x
        tc := { s.tc with inProgress := true, targetId := some t, lastBlock := 0, crcReceived := false }
        dir := .write, txFaults := s.txFaults.tail, txq := s.txq ++ [f], outcome := .proceed, crcAcc := none } := by
  cases d <;> rfl

theorem run_writeRequestRule_opened (request : s.requests name t) (answers : s.storageAnswers)
    (fits : (requestArea s name t).fits = true) (sends : s.nextTxFails = false) :
    let A := requestArea s name t
    ∃ fates, writeRequestRule name s = .ok .proceed
      ((s.openedFor t (s.boundTx name t) A.dev (openedStore s.cfg t.cat A (s.store A.dev)) fates).push
        (Frame.bytes (.ack 0))) := by
  intro A
  have init : memInit .tx (s.setHandle .tx (s.boundTx name t)) =
      .ok true (s.spendFate.setHandle .tx (s.boundTx name t)) :=
    memInit_ok answers.fate rfl fits
  have flush : (do pure (← memFlush .tx).isSome : Act Bool) (s.spendFate.setHandle .tx (s.boundTx name t)) =
      .ok true (s.spendFate.spendFate.setHandle .tx (s.boundTx name t)) :=
    run_bind_ok (memFlush_ok (h := .tx) (s := s.spendFate.setHandle .tx (s.boundTx name t)) answers.spendFate.fate rfl)
  obtain ⟨fates, erase⟩ := run_openErase answers t.cat fits _
  set u := s.openedFor t (s.boundTx name t) A.dev (openedStore s.cfg t.cat A (s.store A.dev)) fates with hu
  have sent : emit (Frame.bytes (.ack 0)) u = .ok () (u.push (Frame.bytes (.ack 0))) := by
    have sends : u.nextTxFails = false := by simpa [State.nextTxFails, hu] using sends
    simp [sends]
  refine ⟨fates, ?_⟩
  calc writeRequestRule name s
    _ = _ := run_bind_ok (run_requestTarget_ok request)
    _ = _ := run_bind_ok (run_get s)
    _ = _ := run_bind_ok (run_memBind ..)
    _ = _ := run_bind_ok (requestCall_ok init _)
    _ = _ := run_bind_ok (requestCall_ok flush _)
    _ = _ := erase
    _ = _ := run_bind_ok (t := u) (run_modify ..)
    _ = _ := run_bind_ok sent

end WriteRequest

/-- Settles O29: the bank is bound and tried, flushed, erased where R170 says so, and the transfer acknowledged. -/
theorem writeRequest : Obligations.WriteRequest := by
  intro s name t ⟨opened, passes⟩ request answers sends silent canonical area
  have passing := run_gate_bind (s := s.clearEmptyReads) passes (writeRequestRule name)
  by_cases fits : area.fits = true
  · obtain ⟨fates, run⟩ := run_writeRequestRule_opened (s := s.clearEmptyReads) request answers fits sends
    have step := frameStep_ok opened (passing.trans run)
    exact ⟨fates, openedStore s.cfg t.cat area (s.store area.dev), fun a => read_openedStore canonical ..,
      fun _ => step.trans (congrArg Host.Outcome.next (finish_openedFor s t _ _ _ fates _)),
      fun unfit => absurd (of_decide_eq_true fits) (by omega)⟩
  · have unfit : area.fits = false := by simpa using fits
    have run := run_writeRequestRule_unfit (s := s.clearEmptyReads) request answers unfit
    have step := frameStep_error_silent opened (passing.trans run) silent
    exact ⟨s.storageFates.tail, openedStore s.cfg t.cat area (s.store area.dev),
      fun a => read_openedStore canonical .., fun inside => absurd (decide_eq_true inside) fits, fun _ => step⟩

end Sys2Proof.Machine
end

section
/-! The two copies of a context where storage answers (spec/44_descriptor_validator.md R265 to R267, R275 to R277;
spec/20_memory.md R80 to R82): what persisting both leaves on the device, and what LOAD makes of them. -/

namespace Sys2Proof.Machine

/-! ### The two sectors (00_scope.md R10; 20_memory.md R82) -/

/-- The sectors of the two copies share no byte (00_scope.md R10). -/
theorem copyArea_disjoint {cfg : Config} (wf : cfg.wf) {c : Cat} {w w' : Copy} (differ : w ≠ w') {a : Nat}
    (covered : (copyArea cfg c w).covers (cfg.dev c) a) : ¬ (copyArea cfg c w').covers (cfg.dev c) a := by
  obtain ⟨⟨disjoint, -⟩, -⟩ := wf
  have apart : ∀ w w' : Copy, w = .primary → w' = .backup →
      (copyAddr cfg c w).toNat + (cfg.sectorSize (cfg.dev c)).toNat ≤ (copyAddr cfg c w').toNat ∨
        (copyAddr cfg c w').toNat + (cfg.sectorSize (cfg.dev c)).toNat ≤ (copyAddr cfg c w).toNat := by
    rintro _ _ rfl rfl
    cases c <;> simp_all [Config.regionsDisjoint, Config.regions, Region.disjoint, copyAddr, Config.dev]
  simp only [Area.covers, copyArea, true_and] at covered ⊢
  cases w <;> cases w'
  · exact absurd rfl differ
  · have := apart _ _ rfl rfl; omega
  · have := apart _ _ rfl rfl; omega
  · exact absurd rfl differ

/-- A byte of a copy's image lies in the copy's sector (20_memory.md R82). -/
theorem covers_of_copyImage {cfg : Config} (wf : cfg.wf) {c : Cat} {ctx : BootContext} (which : Copy) {i : Nat}
    {b : Byte} (image : (copyImage cfg c ctx)[i]? = some b) :
    (copyArea cfg c which).covers (cfg.dev c) ((copyAddr cfg c which).toNat + i) := by
  obtain ⟨inside, -⟩ := List.getElem?_eq_some_iff.mp image
  rw [copyImage_length wf c which] at inside
  exact ⟨rfl, Nat.le_add_right .., Nat.add_lt_add_left inside _⟩

/-- One copy written after the other: both hold the context. -/
theorem holdsCopies_cons {cfg : Config} (wf : cfg.wf) {c : Cat} {ctx : BootContext} {w w' : Copy} (differ : w ≠ w')
    {old mid m : Memory} (first : holdsCopies cfg c ctx [w] old mid) (second : holdsCopies cfg c ctx [w'] mid m) :
    holdsCopies cfg c ctx [w, w'] old m := by
  obtain ⟨image, frame⟩ := first
  obtain ⟨image', frame'⟩ := second
  constructor
  · intro which listed i b stored
    rcases List.mem_pair.mp listed with rfl | rfl
    · rw [frame' _ (by simpa using copyArea_disjoint wf differ (covers_of_copyImage wf which stored))]
      exact image which (by simp) i b stored
    · exact image' which (by simp) i b stored
  · intro a outside
    rw [frame' a (by simpa using outside w' (by simp)), frame a (by simpa using outside w (by simp))]

/-- A copy that holds a context reads as its record (20_memory.md R81). -/
theorem holdsCopies.readBytes {cfg : Config} {c : Cat} {ctx : BootContext} {copies : List Copy} {old m : Memory}
    (holds : holdsCopies cfg c ctx copies old m) {which : Copy} (listed : which ∈ copies) :
    Memory.readBytes m (copyAddr cfg c which).toNat (recLen cfg c) = serialise cfg c ctx := by
  have length := serialise_length cfg c ctx
  refine List.ext_getElem? fun i => ?_
  rw [Memory.readBytes_getElem?]
  by_cases inside : i < recLen cfg c
  · have stored : (serialise cfg c ctx)[i]? = some ((serialise cfg c ctx)[i]'(by omega)) :=
      List.getElem?_eq_getElem _
    have image : (copyImage cfg c ctx)[i]? = (serialise cfg c ctx)[i]? :=
      List.getElem?_append_left (by omega)
    rw [if_pos inside, stored, holds.1 which listed i _ (image.trans stored)]
  · rw [if_neg inside, List.getElem?_eq_none (by omega)]

/-- The record a context is persisted as counts as valid, unless it is all erased bytes (R263; 20_memory.md R81). -/
theorem copyStatus_serialise {cfg : Config} {c : Cat} {ctx : BootContext}
    (programmed : (serialise cfg c ctx).all (· == cfg.erasedByte) = false) :
    copyStatus cfg c (serialise cfg c ctx) = .valid := by
  have own : wordAt cfg (serialise cfg c ctx) (recLen cfg c - 4) = computedOwnCrc cfg c ctx :=
    wordAt_of_slice (serialise_ownCrc cfg c ctx)
  rw [copyStatus, programmed, own, serialise_take_array]
  simp [computedOwnCrc]

/-! ### Persisting a context (44_descriptor_validator.md R275 to R277) -/

/-- What `persist_copy` leaves where storage answers: `m` on the device `d`, the tapes spent, `n` free values drawn,
SB_PM closed on the sector `A`. -/
def State.sectorWritten (s : State) (d : Device) (m : Memory) (n : Nat) (A : Area) : State :=
  { s.setStore d m with
    storageFates := s.storageFates.tail.tail.tail.tail.tail
    readGlitches := s.readGlitches.tail
    freeCtr := s.freeCtr + n
    sbPm := { bound := false, area := A, cur := 0 } }

section SectorWritten
variable (s : State) (d : Device) (m : Memory) (n : Nat) (A : Area)

@[simp] theorem State.sectorWritten_cfg : (s.sectorWritten d m n A).cfg = s.cfg := State.setStore_cfg ..
@[simp] theorem State.sectorWritten_store : (s.sectorWritten d m n A).store d = m := State.setStore_store ..

theorem State.storageAnswers.sectorWritten {s : State} (answers : s.storageAnswers) :
    (s.sectorWritten d m n A).storageAnswers := by
  refine answers.congr (fun f spent => ?_) fun g spent => List.mem_of_mem_tail spent
  iterate 5 replace spent := List.mem_of_mem_tail spent
  exact spent

end SectorWritten

theorem run_persistCopy_sectorWritten {s : State} (wf : s.cfg.wf) (answers : s.storageAnswers) (c : Cat) (which : Copy)
    (ctx : BootContext) (canonical : Memory.wf (s.store (s.cfg.dev c))) :
    persistCopy c which ctx s = .ok true (s.sectorWritten (s.cfg.dev c)
      (rewritten s.cfg c which ctx (s.store (s.cfg.dev c))) (copyImage s.cfg c ctx).length (copyArea s.cfg c which)) :=
  run_persistCopy wf answers c which ctx canonical

/-- A device after both copies are rewritten (44_descriptor_validator.md R277). -/
def bothRewritten (cfg : Config) (c : Cat) (ctx : BootContext) (m : Memory) : Memory :=
  rewritten cfg c .backup ctx (rewritten cfg c .primary ctx m)

theorem bothRewritten_holds {cfg : Config} (wf : cfg.wf) (c : Cat) (ctx : BootContext) {m : Memory}
    (canonical : Memory.wf m) :
    holdsCopies cfg c ctx [.primary, .backup] m (bothRewritten cfg c ctx m) :=
  holdsCopies_cons wf (by decide) (rewritten_holds wf c .primary ctx canonical)
    (rewritten_holds wf c .backup ctx (rewritten_wf canonical ..))

/-- What persisting `ctx` as the context of `c` leaves where storage answers (44_descriptor_validator.md R277). -/
def State.bothWritten (s : State) (c : Cat) (ctx : BootContext) : State :=
  { (s.setStore (s.cfg.dev c) (bothRewritten s.cfg c ctx (s.store (s.cfg.dev c)))).setBc c
      (BootContext.sealed s.cfg c ctx) with
    storageFates := s.storageFates.drop 10
    readGlitches := s.readGlitches.drop 2
    freeCtr := s.freeCtr + (copyImage s.cfg c ctx).length + (copyImage s.cfg c ctx).length
    sbPm := { bound := false, area := copyArea s.cfg c .backup, cur := 0 } }

/-- The context sealed, then one sector written after the other, is all that persisting it does. -/
theorem sectorsWritten_eq (s : State) (c : Cat) (ctx : BootContext) (d : Device) (m m' : Memory) (n : Nat)
    (A A' : Area) :
    ((s.setBc c ctx).sectorWritten d m n A).sectorWritten d m' n A' =
      { (s.setStore d m').setBc c ctx with
        storageFates := s.storageFates.drop 10
        readGlitches := s.readGlitches.drop 2
        freeCtr := s.freeCtr + n + n
        sbPm := { bound := false, area := A', cur := 0 } } := by
  cases c <;> cases d <;>
    simp [State.sectorWritten, State.setBc, State.setStore, ← List.drop_one, List.drop_drop]

/-- The writing half of `persist_both` (44_descriptor_validator.md R277). -/
def persistCopies (c : Cat) (ctx : BootContext) : Act Bool := do
  if ← persistCopy c .primary ctx then persistCopy c .backup ctx else pure false

theorem persistBoth_eq (c : Cat) (s : State) :
    let ctx := BootContext.sealed s.cfg c (s.bc c)
    persistBoth c s = persistCopies c ctx (s.setBc c ctx) := by
  calc persistBoth c s
    _ = _ := run_bind_ok (run_modify ..)
    _ = _ := run_bind_ok (run_get ..)
    _ = _ := by rw [State.sealBc, State.setBc_bc]; rfl

theorem run_persistBoth {s : State} (wf : s.cfg.wf) (answers : s.storageAnswers) (c : Cat)
    (canonical : Memory.wf (s.store (s.cfg.dev c))) :
    persistBoth c s = .ok true (s.bothWritten c (s.bc c)) := by
  rw [persistBoth_eq]
  set ctx := BootContext.sealed s.cfg c (s.bc c)
  have answers : (s.setBc c ctx).storageAnswers := answers.congr (by simp) (by simp)
  have first := run_persistCopy_sectorWritten (by simpa using wf) answers c .primary ctx (by simpa using canonical)
  simp only [State.setBc_cfg, State.setBc_store] at first
  set u := (s.setBc c ctx).sectorWritten (s.cfg.dev c) (rewritten s.cfg c .primary ctx (s.store (s.cfg.dev c)))
    (copyImage s.cfg c ctx).length (copyArea s.cfg c .primary) with hu
  have cfg : u.cfg = s.cfg := by simp [hu]
  have store : u.store (s.cfg.dev c) = rewritten s.cfg c .primary ctx (s.store (s.cfg.dev c)) := by simp [hu]
  have second := run_persistCopy_sectorWritten (s := u) (cfg ▸ wf) (answers.sectorWritten ..) c .backup ctx
    (by rw [cfg, store]; exact rewritten_wf canonical ..)
  rw [cfg, store, hu, sectorsWritten_eq] at second
  exact (run_bind_ok first).trans second

theorem exec_commit {s : State} (wf : s.cfg.wf) (answers : s.storageAnswers) {c : Cat} (loaded : s.loaded c = true)
    (canonical : Memory.wf (s.store (s.cfg.dev c))) :
    exec (.commit c) s = .next (finish (.committed true) (s.bothWritten c (s.bc c))) := by
  refine operationStep_ok ?_
  calc commitRule c s
    _ = _ := run_bind_ok (by rw [run_requireLoaded, if_pos loaded])
    _ = _ := run_bind_ok (run_persistBoth wf answers c canonical)

/-- Settles O41: both copies are rewritten from the context with its own CRC recomputed. -/
theorem commit : Obligations.Commit := by
  intro s c wf loaded answers canonical
  let u := s.bothWritten c (s.bc c)
  exact ⟨u.storageFates, u.readGlitches, u.freeCtr, _, u.sbPm, ⟨rfl, rfl⟩,
    bothRewritten_holds wf c (s.bc c) canonical, exec_commit wf answers loaded canonical⟩

/-! ### LOAD (44_descriptor_validator.md R265 to R267) -/

/-- What `read_copy` of the sector `A` leaves where storage answers: the tapes spent, SB_PM closed. -/
def State.sectorRead (s : State) (A : Area) : State :=
  { s with
    storageFates := s.storageFates.tail.tail
    readGlitches := s.readGlitches.tail
    sbPm := { bound := false, area := A, cur := 0 } }

theorem State.storageAnswers.sectorRead {s : State} (answers : s.storageAnswers) (A : Area) :
    (s.sectorRead A).storageAnswers :=
  answers.congr (fun _ left => List.mem_of_mem_tail (List.mem_of_mem_tail left)) fun _ left => List.mem_of_mem_tail left

/-- What reading both copies leaves. -/
def State.copiesRead (s : State) (c : Cat) : State :=
  (s.sectorRead (copyArea s.cfg c .primary)).sectorRead (copyArea s.cfg c .backup)

@[simp] theorem State.copiesRead_store (s : State) (c : Cat) (d : Device) : (s.copiesRead c).store d = s.store d := rfl

theorem State.storageAnswers.copiesRead {s : State} (answers : s.storageAnswers) (c : Cat) :
    (s.copiesRead c).storageAnswers := (answers.sectorRead _).sectorRead _

section Load
variable {s : State} {c : Cat}

theorem run_loadRule (wf : s.cfg.wf) (answers : s.storageAnswers) (c : Cat) :
    loadRule c s = loadCases c (s.record c .primary) (s.record c .backup) (s.copiesRead c) := by
  have second := run_readCopy (s := s.sectorRead (copyArea s.cfg c .primary)) wf (answers.sectorRead _) c .backup
  calc loadRule c s
    _ = _ := run_bind_ok (run_readCopy wf answers c .primary)
    _ = _ := run_bind_ok second

/-- Two equal valid copies: the context is taken and nothing is written (R265). -/
theorem run_loadCases_equal {p : List Byte} (valid : copyStatus s.cfg c p = .valid) :
    loadCases c p p s = .ok (.loaded .primary true) ((s.setBc c (deserialise s.cfg c p)).setLoaded c) := by
  simp only [loadCases, run_bind, run_get, valid, if_true]
  rfl

/-- A valid primary beside another backup repairs it (R266). -/
theorem loadCases_primary {p b : List Byte} (valid : copyStatus s.cfg c p = .valid) (differ : p ≠ b) :
    loadCases c p b s = loadRepair c (deserialise s.cfg c p) .primary .backup s := by
  cases backup : copyStatus s.cfg c b <;> simp only [loadCases, run_bind, run_get, valid, backup, if_neg differ]

/-- A valid backup beside a primary that is not valid repairs it (R267). -/
theorem loadCases_backup {p b : List Byte} (bad : copyStatus s.cfg c p ≠ .valid)
    (valid : copyStatus s.cfg c b = .valid) :
    loadCases c p b s = loadRepair c (deserialise s.cfg c b) .backup .primary s := by
  cases primary : copyStatus s.cfg c p
  case valid => exact absurd primary bad
  all_goals simp only [loadCases, run_bind, run_get, valid, primary]

/-- A repair installs its context (R266, R267). -/
theorem run_loadRepair (wf : s.cfg.wf) (answers : s.storageAnswers) (canonical : Memory.wf (s.store (s.cfg.dev c)))
    (ctx : BootContext) (src : LoadSource) (bad : Copy) :
    loadRepair c ctx src bad s = .ok (.loaded src true) (((s.sectorWritten (s.cfg.dev c)
      (rewritten s.cfg c bad ctx (s.store (s.cfg.dev c))) (copyImage s.cfg c ctx).length
      (copyArea s.cfg c bad)).setBc c ctx).setLoaded c) :=
  run_bind_ok (run_persistCopy_sectorWritten wf answers c bad ctx canonical)

theorem exec_load_equal (wf : s.cfg.wf) (answers : s.storageAnswers)
    (valid : copyStatus s.cfg c (s.record c .primary) = .valid)
    (equal : s.record c .backup = s.record c .primary) :
    exec (.load c) s = .next (finish (.loaded .primary true)
      (((s.copiesRead c).setBc c (deserialise s.cfg c (s.record c .primary))).setLoaded c)) := by
  refine operationStep_ok ((run_loadRule wf answers c).trans ?_)
  rw [equal]
  exact run_loadCases_equal (s := s.copiesRead c) valid

/-- A LOAD that repairs a copy installs the context it repairs it from (R266, R267). -/
theorem exec_load_repair (wf : s.cfg.wf) (answers : s.storageAnswers) (canonical : Memory.wf (s.store (s.cfg.dev c)))
    {ctx : BootContext} {src : LoadSource} {bad : Copy}
    (repairs : loadCases c (s.record c .primary) (s.record c .backup) (s.copiesRead c) =
      loadRepair c ctx src bad (s.copiesRead c)) :
    ∃ u, exec (.load c) s = .next u ∧ u.bc c = ctx ∧ u.loaded c = true := by
  have run := ((run_loadRule wf answers c).trans repairs).trans
    (run_loadRepair (s := s.copiesRead c) wf (answers.copiesRead c) canonical ctx src bad)
  exact ⟨_, operationStep_ok run, by simp, by simp⟩

/-- LOAD installs the primary where it is valid (R265, R266). -/
theorem exec_load_primary (wf : s.cfg.wf) (answers : s.storageAnswers) (canonical : Memory.wf (s.store (s.cfg.dev c)))
    (valid : copyStatus s.cfg c (s.record c .primary) = .valid) :
    ∃ u, exec (.load c) s = .next u ∧ u.bc c = deserialise s.cfg c (s.record c .primary) ∧ u.loaded c = true := by
  by_cases equal : s.record c .backup = s.record c .primary
  · exact ⟨_, exec_load_equal wf answers valid equal, by simp, by simp⟩
  · exact exec_load_repair wf answers canonical (loadCases_primary (s := s.copiesRead c) valid (Ne.symm equal))

/-- LOAD installs a valid backup where the primary is not valid (R267). -/
theorem exec_load_backup (wf : s.cfg.wf) (answers : s.storageAnswers) (canonical : Memory.wf (s.store (s.cfg.dev c)))
    (bad : copyStatus s.cfg c (s.record c .primary) ≠ .valid)
    (valid : copyStatus s.cfg c (s.record c .backup) = .valid) :
    ∃ u, exec (.load c) s = .next u ∧ u.bc c = deserialise s.cfg c (s.record c .backup) ∧ u.loaded c = true :=
  exec_load_repair wf answers canonical (loadCases_backup (s := s.copiesRead c) bad valid)

end Load

/-! ### COMMIT, a reset, LOAD -/

@[simp] theorem State.bothWritten_cfg (s : State) (c : Cat) (ctx : BootContext) : (s.bothWritten c ctx).cfg = s.cfg :=
  (State.setBc_cfg ..).trans (State.setStore_cfg ..)

@[simp] theorem State.bothWritten_store (s : State) (c : Cat) (ctx : BootContext) :
    (s.bothWritten c ctx).store (s.cfg.dev c) = bothRewritten s.cfg c ctx (s.store (s.cfg.dev c)) :=
  (State.setBc_store ..).trans (State.setStore_store ..)

/-- Settles O48: after COMMIT both copies hold one valid record, which LOAD takes and decodes. -/
theorem commitThenLoad : Obligations.CommitThenLoad := by
  intro s t c wf loaded answers canonical plain programmed step
  obtain ⟨-, -, -, codes⟩ := id wf
  have plain : plainContext c (s.bc c) := by rintro rfl; exact plain rfl
  obtain rfl : finish (.committed true) (s.bothWritten c (s.bc c)) = t :=
    Host.Outcome.next.inj ((exec_commit wf answers loaded canonical).symm.trans step)
  set t := finish (.committed true) (s.bothWritten c (s.bc c)) with ht
  have cfg : t.powerUp.cfg = s.cfg := by simp [ht]
  have record (which : Copy) : t.powerUp.record c which = serialise s.cfg c (s.bc c) := by
    have store : t.powerUp.store (s.cfg.dev c) = bothRewritten s.cfg c (s.bc c) (s.store (s.cfg.dev c)) := by simp [ht]
    rw [State.record, cfg, store]
    exact (bothRewritten_holds wf c (s.bc c) canonical).readBytes (by cases which <;> simp)
  have answers' : t.powerUp.storageAnswers :=
    answers.congr (fun _ left => List.mem_of_mem_drop left) fun _ left => List.mem_of_mem_drop left
  have load := exec_load_equal (s := t.powerUp) (c := c) (cfg ▸ wf) answers'
    (by rw [cfg, record]; exact copyStatus_serialise programmed) (by rw [record, record])
  refine ⟨_, load, ?_, by simp, rfl, fun d a => ?_⟩
  · rw [finish_bc, State.setLoaded_bc, State.setBc_bc, cfg, record, deserialise_serialise codes c _ plain]
  · simp [State.byte]

end Sys2Proof.Machine
end

section
/-! Power lost inside a SWAP (spec/44_descriptor_validator.md R272, R275, R278; spec/70_reset_and_hazards.md R345): what
an action leaves when power is lost at one of its storage calls, and what the next LOAD makes of it. -/

namespace Sys2Proof.Machine

/-! ### A tape that loses power (70_reset_and_hazards.md R345) -/

/-- Power is lost at a call, before it or inside it. -/
def CallFate.losesPower (f : CallFate) : Prop := f = .lostBefore ∨ f = .lostDuring

/-- The next `k` storage calls complete, and in the last one of the tape, after them, power is lost. -/
def State.losesAt (s : State) (k : Nat) : Prop :=
  ∃ f : CallFate, f.losesPower ∧ s.storageFates = List.replicate k .completes ++ [f]

section LosesAt
variable {s t : State} {k : Nat}

theorem State.losesAt.congr (loses : s.losesAt k) (fates : t.storageFates = s.storageFates) : t.losesAt k := by
  obtain ⟨f, lost, tape⟩ := loses
  exact ⟨f, lost, fates.trans tape⟩

theorem State.losesAt.now (loses : s.losesAt 0) : s.fate.losesPower ∧ s.storageFates.tail = [] := by
  obtain ⟨f, lost, tape⟩ := loses
  rw [State.fate, tape]
  exact ⟨lost, rfl⟩

theorem State.losesAt.later (loses : s.losesAt (k + 1)) (fates : t.storageFates = s.storageFates.tail) :
    s.fate = .completes ∧ t.losesAt k := by
  obtain ⟨f, lost, tape⟩ := loses
  rw [State.fate, tape]
  exact ⟨rfl, f, lost, by rw [fates, tape]; rfl⟩

end LosesAt

/-! ### What an action leaves around one area -/

/-- No byte outside the area `A` changes, the devices keep their form, and the reads stay right if they were. -/
structure Confined (A : Area) (s t : State) : Prop where
  cfg : t.cfg = s.cfg
  canonical : ∀ d, Memory.wf (s.store d) → Memory.wf (t.store d)
  bytes : ∀ d, Memory.wf (s.store d) → ∀ a, ¬ A.covers d a → t.byte d a = s.byte d a
  glitches : s.readGlitches = [] → t.readGlitches = []

section Confined
variable {A : Area} {s t u : State}

theorem Confined.of_registers (cfg : t.cfg = s.cfg) (store : ∀ d, t.store d = s.store d)
    (glitches : t.readGlitches = s.readGlitches) : Confined A s t where
  cfg := cfg
  canonical := fun d wf => store d ▸ wf
  bytes := fun d _ a _ => by rw [State.byte, store, State.byte]
  glitches := fun right => glitches.trans right

theorem Confined.refl (A : Area) (s : State) : Confined A s s := .of_registers rfl (fun _ => rfl) rfl

theorem Confined.trans (h : Confined A s t) (h' : Confined A t u) : Confined A s u where
  cfg := h'.cfg.trans h.cfg
  canonical := fun d wf => h'.canonical d (h.canonical d wf)
  bytes := fun d wf a outside => (h'.bytes d (h.canonical d wf) a outside).trans (h.bytes d wf a outside)
  glitches := fun right => h'.glitches (h.glitches right)

/-- A storage call through SB_PM that addresses bytes of the area alone. -/
theorem Called.confined (call : Called .pm A.covers s t) (glitches : s.readGlitches = [] → t.readGlitches = []) :
    Confined A s t where
  cfg := by
    obtain ⟨_, _, _, _, _, _, rfl⟩ := call.registers
    rfl
  canonical := call.canonical
  bytes := fun d wf a outside => not_ne_iff.mp fun change => outside (call.bytes d wf a change)
  glitches := glitches

theorem Confined.setHandle (A : Area) (s : State) (h : HandleId) (x : Handle) : Confined A s (s.setHandle h x) :=
  .of_registers (by simp) (by simp) (by simp)

end Confined

/-! ### Actions with a number of storage calls -/

/-- Power was lost at a call: what that leaves. -/
def Cut (A : Area) (s u : State) : Prop := Confined A s u ∧ u.storageFates = []

/-- From `s` the action makes `n` storage calls in the area `A`: if they complete it ends in `t` with `a`; if power is
lost at one of them it stops there. -/
structure Takes {α : Type} (A : Area) (n : Nat) (x : Act α) (s : State) (a : α) (t : State) : Prop where
  confined : Confined A s t
  stops : ∀ k < n, s.losesAt k → ∃ u, x s = .error .powerLost u ∧ Cut A s u
  ends : ∀ k, s.losesAt (n + k) → x s = .ok a t ∧ t.losesAt k

section Takes
variable {α β : Type} {A : Area} {s t u : State}

/-- An action with no storage call. -/
theorem Takes.none {x : Act α} {a : α} (confined : Confined A s t) (run : x s = .ok a t)
    (fates : t.storageFates = s.storageFates) : Takes A 0 x s a t where
  confined := confined
  stops := nofun
  ends := fun k loses => ⟨run, (Nat.zero_add k ▸ loses).congr fates⟩

theorem takes_pure (A : Area) (a : α) (s : State) : Takes A 0 (pure a) s a s := .none (.refl A s) rfl rfl

theorem Takes.bind {m n : Nat} {x : Act α} {f : α → Act β} {a : α} {b : β} (hx : Takes A m x s a t)
    (hf : Takes A n (f a) t b u) : Takes A (m + n) (x >>= f) s b u where
  confined := hx.confined.trans hf.confined
  stops := by
    intro k early loses
    by_cases first : k < m
    · obtain ⟨v, run, cut⟩ := hx.stops k first loses
      exact ⟨v, run_bind_error run, cut⟩
    · obtain ⟨j, rfl⟩ := Nat.exists_eq_add_of_le (Nat.le_of_not_lt first)
      obtain ⟨run, later⟩ := hx.ends j loses
      obtain ⟨v, run', confined, spent⟩ := hf.stops j (by omega) later
      exact ⟨v, (run_bind_ok run).trans run', hx.confined.trans confined, spent⟩
  ends := fun k loses => by
    obtain ⟨run, later⟩ := hx.ends (n + k) (Nat.add_assoc m n k ▸ loses)
    obtain ⟨run', later'⟩ := hf.ends k later
    exact ⟨(run_bind_ok run).trans run', later'⟩

/-- One storage call. -/
theorem Takes.call {x : Act α} {a : α} (confined : Confined A s t) (fates : t.storageFates = s.storageFates.tail)
    (completes : s.fate = .completes → x s = .ok a t)
    (lost : s.fate.losesPower → ∃ u, x s = .error .powerLost u ∧ Confined A s u ∧
      u.storageFates = s.storageFates.tail) : Takes A 1 x s a t where
  confined := confined
  stops := fun k early loses => by
    obtain rfl : k = 0 := by omega
    obtain ⟨now, last⟩ := loses.now
    obtain ⟨u, run, confined, spent⟩ := lost now
    exact ⟨u, run, confined, spent.trans last⟩
  ends := fun k loses => by
    obtain ⟨now, later⟩ := (Nat.add_comm 1 k ▸ loses).later fates
    exact ⟨completes now, later⟩

end Takes

/-! ### The storage calls on a bound area that exists (20_memory.md R63 to R67) -/

section Calls
variable {A : Area} {s : State} {cur : Word}

theorem takes_memInit (handle : s.sbPm = { bound := true, area := A, cur := cur }) (fits : A.fits = true) :
    Takes A 1 (memInit .pm) s true s.spendFate := by
  have confined : Confined A s s.spendFate := (Called.spend .pm A.covers s).confined id
  refine .call confined rfl (fun now => memInit_ok now (by simp [handle]) (by simp [handle, fits])) ?_
  rintro (lost | lost) <;> exact ⟨_, by rw [run_memInit, lost], confined, rfl⟩

theorem takes_memFlush (handle : s.sbPm = { bound := true, area := A, cur := cur }) :
    Takes A 1 (memFlush .pm) s (some cur) s.spendFate := by
  have confined : Confined A s s.spendFate := (Called.spend .pm A.covers s).confined id
  refine .call confined rfl (fun now => ?_) ?_
  · rw [memFlush_ok now (by simp [handle]), State.handle_pm, handle]
  · rintro (lost | lost) <;> exact ⟨_, by rw [run_memFlush, lost], confined, rfl⟩

theorem takes_memRead (handle : s.sbPm = { bound := true, area := A, cur := cur }) (fits : A.fits = true)
    (right : s.readGlitches = []) {n : Nat} (room : n ≤ A.size.toNat) :
    Takes A 1 (memRead .pm 0 n) s (some (Memory.readBytes (s.store A.dev) A.start.toNat n))
      s.spendFate.spendGlitch := by
  have spent : Confined A s s.spendFate := (Called.spend .pm A.covers s).confined id
  have confined : Confined A s s.spendFate.spendGlitch :=
    (Called.read .pm A.covers s).confined fun right => by simp [right]
  refine .call confined rfl (fun now => ?_) ?_
  · rw [memRead_ok now (by simp [State.glitch, right]) (by simp [handle]) (by simp [handle, fits])
      (by simpa [handle] using room)]
    simp [handle]
  · rintro (lost | lost)
    · exact ⟨_, by rw [run_memRead, if_pos lost], spent, rfl⟩
    · exact ⟨_, by simp [run_memRead, lost, handle, fits, room], confined, rfl⟩

theorem takes_memErase (handle : s.sbPm = { bound := true, area := A, cur := cur }) (fits : A.fits = true) :
    Takes A 1 (memErase .pm) s true
      ((s.spendFate.eraseArea A).setHandle .pm { bound := true, area := A, cur := 0 }) := by
  have bound : (s.handle .pm).bound = true := by simp [handle]
  have spent : Confined A s s.spendFate := (Called.spend .pm A.covers s).confined id
  have erased : Called .pm A.covers s _ :=
    Called.erased (cur := 0) (A := A) bound fun a low high => ⟨rfl, low, high⟩
  have scrambled : Called .pm A.covers s _ := Called.scrambled bound fun a low high => ⟨rfl, low, high⟩
  simp only [State.handle_pm, handle] at erased
  refine .call (erased.confined fun right => by simp [right]) (by simp) (fun now => ?_) ?_
  · rw [memErase_ok now bound (by simp [handle, fits]), State.handle_pm, handle]
  · rintro (lost | lost)
    · exact ⟨_, by rw [run_memErase, if_pos lost], spent, rfl⟩
    · exact ⟨_, by simp [run_memErase, lost, handle, fits], scrambled.confined fun right => by simp [right],
        by simp⟩

theorem takes_memWrite (handle : s.sbPm = { bound := true, area := A, cur := 0 }) (fits : A.fits = true)
    {bytes : List Byte} (room : bytes.length ≤ A.size.toNat) :
    Takes A 1 (memWrite .pm bytes) s true ((s.spendFate.program A.dev A.start.toNat bytes).setHandle .pm
      { bound := true, area := A, cur := BitVec.ofNat 32 bytes.length }) := by
  have bound : (s.handle .pm).bound = true := by simp [handle]
  have inside : ∀ a, A.start.toNat ≤ a → a < A.start.toNat + bytes.length → A.covers A.dev a :=
    fun a low high => ⟨rfl, low, by omega⟩
  have cursor : (s.handle .pm).cursor = A.start.toNat := by simp [handle, Handle.cursor]
  have spent : Confined A s s.spendFate := (Called.spend .pm A.covers s).confined id
  have programmed : Called .pm A.covers s _ :=
    Called.programmed (cur := BitVec.ofNat 32 bytes.length) bound inside
  have scrambled : Called .pm A.covers s _ := Called.scrambled bound inside
  simp only [State.handle_pm, handle] at programmed
  refine .call (programmed.confined fun right => by simp [right]) (by simp) (fun now => ?_) ?_
  · rw [memWrite_ok now bound (by simp [handle, fits]) (by simpa [handle] using room), cursor, State.handle_pm, handle]
    simp
  · rintro (lost | lost)
    · exact ⟨_, by rw [run_memWrite, if_pos lost], spent, rfl⟩
    · exact ⟨_, by simp [run_memWrite, lost, handle, fits, room, Handle.cursor],
        scrambled.confined fun right => by simp [right], by simp⟩

end Calls

/-! ### Persisting one copy (44_descriptor_validator.md R275) -/

/-- Erasing an area and programming its image leaves the image there (20_memory.md R66, R75). -/
theorem takes_writeCopy {A : Area} {s : State} (handle : s.sbPm = { bound := true, area := A, cur := 0 })
    (fits : A.fits = true) {image : List Byte} (fills : image.length = A.size.toNat)
    (canonical : Memory.wf (s.store A.dev)) :
    ∃ t cur, Takes A 4 (writeCopy image) s true t ∧ t.sbPm = { bound := true, area := A, cur := cur } ∧
      t.store A.dev = Memory.writeBytes
        (Memory.fill (s.store A.dev) A.start.toNat A.size.toNat s.cfg.erasedByte) A.start.toNat image := by
  have init := takes_memInit handle fits
  have erase := takes_memErase (s := s.spendFate) handle fits
  set u := (s.spendFate.spendFate.eraseArea A).setHandle .pm { bound := true, area := A, cur := 0 } with hu
  have write := takes_memWrite (s := u) rfl fits fills.le
  set v := (u.spendFate.program A.dev A.start.toNat image).setHandle .pm
    { bound := true, area := A, cur := BitVec.ofNat 32 image.length } with hv
  have flush := takes_memFlush (A := A) (s := v) rfl
  refine ⟨v.spendFate, _, ?_, rfl, ?_⟩
  · have flushed : Takes A 1 (do pure (← memFlush .pm).isSome) v true v.spendFate :=
      flush.bind (n := 0) (takes_pure A true _)
    exact init.bind (n := 3) (erase.bind (n := 2) (write.bind (n := 1) flushed))
  · have erased : u.store A.dev = Memory.fill (s.store A.dev) A.start.toNat A.size.toNat s.cfg.erasedByte := by
      have := State.eraseArea_store s.spendFate.spendFate A
      simpa [hu] using this
    have programmed : v.store A.dev = Memory.writeBytes (u.store A.dev) A.start.toNat
        (Memory.programmed (u.store A.dev) s.cfg.erasedByte A.start.toNat u.freeCtr image) := by
      have := State.program_store u.spendFate A.dev A.start.toNat image
      simpa [hv, hu] using this
    rw [State.spendFate_store, programmed, erased, Memory.programmed_erased]
    intro a low high
    rw [Memory.read_fill canonical, if_pos ⟨low, fills ▸ high⟩]

/-- Persisting a copy makes five storage calls, and leaves the context's record in it (R275). -/
theorem takes_persistCopy {s : State} (wf : s.cfg.wf) (right : s.readGlitches = []) (c : Cat) (which : Copy)
    (ctx : BootContext) (canonical : Memory.wf (s.store (s.cfg.dev c))) :
    ∃ t, Takes (copyArea s.cfg c which) 5 (persistCopy c which ctx) s true t ∧
      t.record c which = serialise s.cfg c ctx := by
  obtain ⟨fits, room⟩ := copyArea_ok wf c which
  have fills := copyImage_length wf c which ctx
  set A := copyArea s.cfg c which
  set x : Handle := { bound := true, area := A, cur := 0 }
  have bind : Takes A 0 (memBind .pm A) s () (s.setHandle .pm x) := .none (.setHandle ..) rfl rfl
  obtain ⟨t, cur, write, handle, store⟩ := takes_writeCopy (s := s.setHandle .pm x) rfl fits fills canonical
  have read := takes_memRead handle fits (write.confined.glitches right) room
  have bytes : Memory.readBytes (t.store A.dev) A.start.toNat (recLen s.cfg c) = serialise s.cfg c ctx := by
    rw [store]
    exact readBytes_rewritten s.cfg c which ctx canonical
  rw [bytes] at read
  set u := t.spendFate.spendGlitch
  have close : Takes A 0 (memClose .pm) u () (u.setHandle .pm (u.handle .pm).close) := .none (.setHandle ..) rfl rfl
  set v := u.setHandle .pm (u.handle .pm).close
  have same : Takes A 0 (pure (some (serialise s.cfg c ctx) == some (serialise s.cfg c ctx))) v true v :=
    .none (.refl ..) (by rw [beq_self_eq_true]; rfl) rfl
  have cfg : Takes A 0 (get : Act State) s s s := .none (.refl ..) (run_get s) rfl
  have run : Takes A 5 (persistCopy c which ctx) s true v :=
    cfg.bind (n := 5) (bind.bind (n := 5) (write.bind (n := 1) (read.bind (n := 0) (close.bind (n := 0) same))))
  refine ⟨v, run, ?_⟩
  rw [State.record, run.confined.cfg, ← bytes]
  rfl

/-! ### A SWAP in which power is lost (44_descriptor_validator.md R272, R278) -/

/-- What happens in a copy's sector leaves the other copy's record. -/
theorem Confined.record {s t : State} (wf : s.cfg.wf) {c : Cat} {w w' : Copy}
    (confined : Confined (copyArea s.cfg c w) s t) (differ : w' ≠ w) (canonical : Memory.wf (s.store (s.cfg.dev c))) :
    t.record c w' = s.record c w' := by
  obtain ⟨fits, room⟩ := copyArea_ok wf c w'
  rw [State.record, State.record, confined.cfg]
  refine Memory.readBytes_congr fun a low high => confined.bytes _ canonical a (copyArea_disjoint wf differ ?_)
  simp only [copyArea] at room
  exact ⟨rfl, low, by simp only [copyArea]; omega⟩

/-- What a loss of power while `new` is persisted leaves: the tapes at their end, and the backup as it was or the
primary already new (R277). -/
structure Interrupted (c : Cat) (new : List Byte) (s u : State) : Prop where
  cfg : u.cfg = s.cfg
  canonical : Memory.wf (u.store (s.cfg.dev c))
  fates : u.storageFates = []
  glitches : u.readGlitches = []
  copies : u.record c .backup = s.record c .backup ∨ u.record c .primary = new

/-- Power lost at one of the ten storage calls that persist a context. -/
theorem run_persistCopies_interrupted {s : State} (wf : s.cfg.wf) (right : s.readGlitches = []) (c : Cat)
    (ctx : BootContext) (canonical : Memory.wf (s.store (s.cfg.dev c))) {k : Nat} (loses : s.losesAt k)
    (early : k < 10) :
    ∃ u, persistCopies c ctx s = .error .powerLost u ∧ Interrupted c (serialise s.cfg c ctx) s u := by
  obtain ⟨t, first, primary⟩ := takes_persistCopy wf right c .primary ctx canonical
  by_cases inFirst : k < 5
  · obtain ⟨u, run, confined, spent⟩ := first.stops k inFirst loses
    exact ⟨u, run_bind_error run, confined.cfg, confined.canonical _ canonical, spent, confined.glitches right,
      .inl (confined.record wf (by decide) canonical)⟩
  · obtain ⟨j, rfl⟩ := Nat.exists_eq_add_of_le (Nat.le_of_not_lt inFirst)
    obtain ⟨done, loses⟩ := first.ends j loses
    obtain ⟨cfg, canonical', -, right'⟩ := first.confined
    replace wf : t.cfg.wf := cfg ▸ wf
    replace canonical : Memory.wf (t.store (t.cfg.dev c)) := by rw [cfg]; exact canonical' _ canonical
    obtain ⟨_, second, -⟩ := takes_persistCopy wf (right' right) c .backup ctx canonical
    obtain ⟨u, run, confined, spent⟩ := second.stops j (by omega) loses
    exact ⟨u, (run_bind_ok done).trans run, confined.cfg.trans cfg, confined.canonical _ (cfg ▸ canonical), spent,
      confined.glitches (right' right), .inr ((confined.record wf (by decide) canonical).trans primary)⟩

theorem exec_swap_interrupted {s : State} (wf : s.cfg.wf) {c : Cat} (loaded : s.loaded c = true)
    (right : s.readGlitches = []) (canonical : Memory.wf (s.store (s.cfg.dev c))) {k : Nat} (loses : s.losesAt k)
    (early : k < 10) :
    let new := serialise s.cfg c { s.bc c with active := toggled (s.bc c).active }
    ∃ u : State, exec (.swap c) s = .next u.powerUp ∧ Interrupted c new s u := by
  intro new
  set ctx : BootContext := { s.bc c with active := toggled (s.bc c).active }
  set t := (s.setBc c ctx).setBc c (BootContext.sealed s.cfg c ctx) with ht
  have cfg : t.cfg = s.cfg := by simp [ht]
  have store : t.store (s.cfg.dev c) = s.store (s.cfg.dev c) := by simp [ht]
  obtain ⟨u, run, left⟩ := run_persistCopies_interrupted (s := t) (cfg ▸ wf) (by simpa [ht] using right) c
    (BootContext.sealed s.cfg c ctx) (by rwa [cfg, store]) (loses.congr (by simp [ht])) early
  have persist : persistBoth c (s.setBc c ctx) = .error .powerLost u := by
    rw [persistBoth_eq, State.setBc_bc, State.setBc_cfg]
    exact run
  have swap : swapRule c s = .error .powerLost u := by
    calc swapRule c s
      _ = _ := run_bind_ok (by rw [run_requireLoaded, if_pos loaded])
      _ = _ := run_bind_ok (run_modify ..)
      _ = _ := run_bind_ok (run_get ..)
      _ = _ := run_bind_error persist
  have record : t.record c .backup = s.record c .backup := by rw [State.record, cfg, store, State.record]
  refine ⟨u, ?_, left.cfg.trans cfg, cfg ▸ left.canonical, left.fates, left.glitches, ?_⟩
  · show settleOperation (swapRule c s) = _
    rw [swap]
    rfl
  · have copies := left.copies
    rwa [record, cfg] at copies

@[simp] theorem State.powerUp_record (s : State) (c : Cat) (which : Copy) :
    s.powerUp.record c which = s.record c which := by
  simp [State.record]

/-- A toggled selector leaves what the own CRC covers, so a context whose own CRC is up to date is read back from its
record (10_state.md R36; 20_memory.md R81). -/
theorem deserialise_serialise_active {cfg : Config} (codes : cfg.activeEncOk) {c : Cat} {ctx : BootContext}
    (plain : plainContext c ctx) (own : ctx.ownCrc = crc32 cfg (arrayBytes cfg c ctx)) (a : Active) :
    deserialise cfg c (serialise cfg c { ctx with active := a }) = { ctx with active := a } := by
  rw [deserialise_serialise codes c _ (plain.congr (by rintro ⟨⟩ <;> rfl) (by rintro ⟨⟩ <;> rfl))]
  exact congrArg (fun crc => { ctx with active := a, ownCrc := crc }) own.symm

/-- Settles O50: whichever copy the loss of power left as it was or already complete, LOAD finds a valid one. -/
theorem interruptedSwapIsAtomic : Obligations.InterruptedSwapIsAtomic := by
  intro s t c k f wf loaded right canonical plain own old next new programmed programmed' records tape lost step
    proviso early
  obtain ⟨u, swap, left⟩ := exec_swap_interrupted wf loaded right canonical ⟨f, lost, tape⟩ early
  obtain rfl : u.powerUp = t := Host.Outcome.next.inj (swap.symm.trans step)
  obtain ⟨cfg, canonical, fates, glitches, copies⟩ := left
  obtain ⟨-, -, -, codes⟩ := id wf
  replace plain : plainContext c (s.bc c) := by rintro rfl; exact plain rfl
  have ofOld : deserialise s.cfg c old = s.bc c := deserialise_serialise_active codes plain own (s.bc c).active
  have ofNew : deserialise s.cfg c new = next := deserialise_serialise_active codes plain own _
  have same : u.powerUp.cfg = s.cfg := cfg
  have answers : u.powerUp.storageAnswers := ⟨by simp [fates], by simp [glitches]⟩
  have wf' : u.powerUp.cfg.wf := same ▸ wf
  have canonical' : Memory.wf (u.powerUp.store (u.powerUp.cfg.dev c)) := by rwa [same, State.powerUp_store]
  rw [← u.powerUp_record c .backup, ← u.powerUp_record c .primary] at copies
  refine ⟨by simp, ?_⟩
  by_cases valid : copyStatus s.cfg c (u.powerUp.record c .primary) = .valid
  · obtain ⟨v, load, ctx, ready⟩ := exec_load_primary wf' answers canonical' (same ▸ valid)
    rw [same] at ctx
    rcases proviso .primary with bad | primary | primary
    · exact absurd valid bad
    · exact ⟨v, load, .inl (by rw [ctx, primary, ofOld]), ready⟩
    · exact ⟨v, load, .inr (by rw [ctx, primary, ofNew]), ready⟩
  · have backup : u.powerUp.record c .backup = old := by
      refine (copies.resolve_right fun primary => valid ?_).trans (records .backup)
      rw [primary]
      exact copyStatus_serialise programmed'
    obtain ⟨v, load, ctx, ready⟩ := exec_load_backup wf' answers canonical' (same ▸ valid)
      (by rw [same, backup]; exact copyStatus_serialise programmed)
    exact ⟨v, load, .inl (by rw [ctx, same, backup, ofOld]), ready⟩

end Sys2Proof.Machine
end

section
/-! The name at the front of a request (spec/30_encoding.md R108): the bytes before the first NUL of its window. -/

namespace Sys2Proof.Machine

theorem slice_getElem? (B : List Byte) (a b k : Nat) :
    (slice B a b)[k]? = if a + k < b then B[a + k]? else none := by
  simp only [slice, List.getElem?_drop, List.getElem?_take]

/-- The byte at `j` is the first NUL from `i` on. -/
structure FirstNul (B : List Byte) (i j : Nat) : Prop where
  start : i ≤ j
  nul : B[j]? = some 0
  first : ∀ k, i ≤ k → k < j → B[k]? ≠ some 0

theorem exists_firstNul {B : List Byte} {i j : Nat} (start : i ≤ j) (nul : B[j]? = some 0) :
    ∃ k ≤ j, FirstNul B i k := by
  have some_nul : ∃ k, i ≤ k ∧ B[k]? = some 0 := ⟨j, start, nul⟩
  obtain ⟨low, found⟩ := Nat.find_spec some_nul
  exact ⟨Nat.find some_nul, Nat.find_min' some_nul ⟨start, nul⟩, low, found,
    fun k from_i before zero => Nat.find_min some_nul before ⟨from_i, zero⟩⟩

theorem mem_window_iff {B : List Byte} {i m : Nat} :
    0#8 ∈ slice B i m ↔ ∃ j, i ≤ j ∧ j < m ∧ B[j]? = some 0 := by
  rw [List.mem_iff_getElem?]
  constructor
  · rintro ⟨k, found⟩
    rw [slice_getElem?] at found
    split at found
    · exact ⟨i + k, Nat.le_add_right i k, ‹_›, found⟩
    · cases found
  · rintro ⟨j, start, inside, nul⟩
    obtain ⟨k, rfl⟩ := Nat.exists_eq_add_of_le start
    exact ⟨k, (slice_getElem? B i m k).trans ((if_pos inside).trans nul)⟩

/-- The bytes of a window before its first NUL. -/
theorem FirstNul.takeWhile_window {B : List Byte} {i j m : Nat} (h : FirstNul B i j) (inside : j < m) :
    (slice B i m).takeWhile (· != 0#8) = (B.take j).drop i := by
  obtain ⟨k, rfl⟩ := Nat.exists_eq_add_of_le h.start
  have nul : (slice B i m)[k]? = some 0 := by rw [slice_getElem?, if_pos inside, h.nul]
  obtain ⟨short, zero⟩ := List.getElem?_eq_some_iff.mp nul
  have index : (slice B i m).findIdx (fun b => !(b != 0#8)) = k := by
    refine (List.findIdx_eq short).mpr ⟨by simp [zero], fun k' before => ?_⟩
    have other := h.first (i + k') (Nat.le_add_right i k') (by omega)
    have here := slice_getElem? B i m k'
    rw [if_pos (by omega), List.getElem?_eq_getElem (by omega)] at here
    rw [← here] at other
    simpa using other
  rw [List.takeWhile_eq_take_findIdx_not, index, slice, List.take_drop, List.take_take,
    Nat.min_eq_left (Nat.le_of_lt inside)]

theorem cstr_eq_none_iff {B : List Byte} {i budget len : Nat} :
    cstr B i budget len = none ↔ ∀ j, i ≤ j → j < min len (i + budget) → B[j]? ≠ some 0 := by
  simp only [cstr, ite_eq_right_iff, reduceCtorEq, imp_false, mem_window_iff, not_exists, not_and]

theorem cstr_of_firstNul {B : List Byte} {i j budget len : Nat} (h : FirstNul B i j)
    (inside : j < min len (i + budget)) : cstr B i budget len = some ((B.take j).drop i) := by
  rw [cstr, if_pos (mem_window_iff.mpr ⟨j, h.start, inside, h.nul⟩), h.takeWhile_window inside]

/-- Settles O8: a window with a NUL has a first one. -/
theorem nameExtraction : Obligations.NameExtraction := by
  intro B i budget len _
  refine ⟨cstr_eq_none_iff, fun name => ⟨fun found => ?_, ?_⟩⟩
  · have some_nul : ¬ cstr B i budget len = none := by simp [found]
    rw [cstr_eq_none_iff] at some_nul
    push Not at some_nul
    obtain ⟨j, start, inside, nul⟩ := some_nul
    obtain ⟨k, le, first⟩ := exists_firstNul start nul
    have inside := Nat.lt_of_le_of_lt le inside
    rw [cstr_of_firstNul first inside] at found
    exact ⟨k, first.start, inside, first.nul, first.first, (Option.some.inj found).symm⟩
  · rintro ⟨j, start, inside, nul, first, rfl⟩
    exact cstr_of_firstNul ⟨start, nul, first⟩ inside

end Sys2Proof.Machine
end

section
/-! Decoding the bytes of a frame (spec/30_encoding.md R101 to R118): the fields behind the two bytes of a header, and
the bytes that have no effect. -/

namespace Sys2Proof.Machine

/-! ### Numbers in a frame (00_scope.md R12) -/

theorem be16_encBe16 (v : Half) (B : List Byte) : be16 (encBe16 v ++ B) 0 = v := by
  have halves :=
    BitVec.extractLsb'_append_extractLsb'_eq_extractLsb' (x := v) (start₁ := 0) (len₁ := 8) (len₂ := 8) rfl
  exact halves.trans BitVec.extractLsb'_eq_self

theorem be32_encBe32 (v : Word) (B : List Byte) : be32 (encBe32 v ++ B) 0 = v := by
  have high : be16 (encBe32 v ++ B) 0 = v.extractLsb' 16 16 := by
    rw [encBe32, List.append_assoc, be16_encBe16]
  have low : be16 (encBe32 v ++ B) 2 = v.extractLsb' 0 16 := be16_encBe16 (v.extractLsb' 0 16) B
  have halves :=
    BitVec.extractLsb'_append_extractLsb'_eq_extractLsb' (x := v) (start₁ := 0) (len₁ := 16) (len₂ := 16) rfl
  rw [be32, high, low]
  exact halves.trans BitVec.extractLsb'_eq_self

@[simp] theorem encBe16_length (v : Half) : (encBe16 v).length = 2 := rfl

@[simp] theorem encBe32_length (v : Word) : (encBe32 v).length = 4 := rfl

/-! ### The fields of each kind -/

/-- A frame with its header: the sentinel, the opcode of a kind and the rest (30_encoding.md R101). -/
def framed (k : Kind) (rest : List Byte) : List Byte := sentinelByte :: opcodeOf k :: rest

theorem framed_length (k : Kind) (rest : List Byte) : (framed k rest).length = 2 + rest.length := by
  simp only [framed, List.length_cons]
  omega

@[simp] theorem kindOf_opcodeOf (k : Kind) : kindOf (opcodeOf k) = some k := by cases k <;> rfl

/-- A frame of a kind whose length is in bounds passes the tests of the front end (30_encoding.md R110, R118). -/
theorem decodeFrame_framed {k : Kind} {rest : List Byte} (long : (kindBounds k).1 ≤ 2 + rest.length)
    (short : 2 + rest.length ≤ (kindBounds k).2) :
    decodeFrame (framed k rest) (2 + rest.length) = decodeFields k (framed k rest) (2 + rest.length) := by
  have two : 2 ≤ (kindBounds k).1 := by cases k <;> decide
  have most : (kindBounds k).2 ≤ maxFrame := by cases k <;> decide
  have sentinel : byteAt (framed k rest) 0 = sentinelByte := rfl
  have opcode : kindOf (byteAt (framed k rest) 1) = some k := kindOf_opcodeOf k
  rw [decodeFrame, if_neg (by omega), if_neg (not_not.mpr sentinel), opcode]
  exact if_neg (by omega)

/-- What a frame of a kind decodes to, from its fields. -/
theorem decode_framed (cfg : Config) {k : Kind} {rest : List Byte} {f : Frame}
    (long : (kindBounds k).1 ≤ 2 + rest.length) (short : 2 + rest.length ≤ (kindBounds k).2)
    (fields : decodeFields k (framed k rest) (2 + rest.length) = .ok f) :
    decode cfg (.frame (framed k rest)) = .ok (Instr.ofFrame cfg f) := by
  rw [decode, if_neg (by rw [framed_length]; omega), framed_length, decodeFrame_framed long short, fields]

/-- The name behind `pre` ends at its NUL, whatever follows (30_encoding.md R108). -/
theorem cstr_append {pre name : List Byte} (ok : nameOk name) (junk : List Byte) {len : Nat}
    (long : pre.length + name.length < len) :
    cstr (pre ++ name ++ [0] ++ junk) pre.length nameBudget len = some name := by
  obtain ⟨short, nonzero⟩ := ok
  rw [List.append_assoc (pre ++ name)]
  have first : FirstNul (pre ++ name ++ ([0] ++ junk)) pre.length (pre ++ name).length :=
    { start := by simp
      nul := by rw [List.getElem?_append_right le_rfl, Nat.sub_self]; rfl
      first := fun k from_pre before zero => by
        rw [List.getElem?_append_left before, List.getElem?_append_right from_pre] at zero
        exact nonzero (List.mem_of_getElem? zero) }
  rw [cstr_of_firstNul first (by simp only [List.length_append, nameBudget]; omega), List.take_left, List.drop_left]

theorem be16_framed (k : Kind) (v : Half) (rest : List Byte) : be16 (framed k (encBe16 v ++ rest)) 2 = v :=
  be16_encBe16 v rest

theorem be32_framed (k : Kind) (v : Word) (rest : List Byte) : be32 (framed k (encBe32 v ++ rest)) 2 = v :=
  be32_encBe32 v rest

theorem decodeFields_rrq {B name : List Byte} {len : Nat} {length : Word} (value : be32 B 2 = length)
    (found : cstr B 6 nameBudget len = some name) : decodeFields .readRequest B len = .ok (.rrq length name) := by
  rw [decodeFields, value, found]

theorem decodeFields_wrq {B name : List Byte} {len : Nat} (found : cstr B 2 nameBudget len = some name) :
    decodeFields .writeRequest B len = .ok (.wrq name) := by
  rw [decodeFields, found]

section Kinds
variable (cfg : Config) {name junk : List Byte}

theorem decode_rrq (length : Word) (ok : nameOk name) (short : 7 + name.length + junk.length ≤ 516) :
    decode cfg (.frame (framed .readRequest (encBe32 length ++ name ++ [0] ++ junk))) = .ok (.rrq length name) := by
  have size : 2 + (encBe32 length ++ name ++ [0] ++ junk).length = 7 + name.length + junk.length := by
    simp only [List.length_append, List.length_singleton, encBe32_length]
    omega
  refine decode_framed cfg (f := .rrq length name) (by rw [size, kindBounds]; omega) (by rw [size]; exact short) ?_
  have found := cstr_append (pre := framed .readRequest (encBe32 length)) ok junk
    (len := 2 + (encBe32 length ++ name ++ [0] ++ junk).length) (by rw [size, framed_length, encBe32_length]; omega)
  refine decodeFields_rrq ?_ found
  rw [List.append_assoc, List.append_assoc]
  exact be32_framed .readRequest length _

theorem decode_wrq (ok : nameOk name) (short : 3 + name.length + junk.length ≤ 516) :
    decode cfg (.frame (framed .writeRequest (name ++ [0] ++ junk))) = .ok (.wrq name) := by
  have size : 2 + (name ++ [0] ++ junk).length = 3 + name.length + junk.length := by
    simp only [List.length_append, List.length_singleton]
    omega
  refine decode_framed cfg (f := .wrq name) (by rw [size, kindBounds]; omega) (by rw [size]; exact short) ?_
  have found := cstr_append (pre := framed .writeRequest []) ok junk
    (len := 2 + (name ++ [0] ++ junk).length) (by rw [size, framed_length, List.length_nil]; omega)
  exact decodeFields_wrq found

/-- The bytes behind the four of a header and a number. -/
theorem slice_framed (k : Kind) (v : Half) (rest : List Byte) :
    slice (framed k (encBe16 v ++ rest)) 4 (2 + (encBe16 v ++ rest).length) = rest := by
  rw [← framed_length k, slice, List.take_length]
  rfl

theorem decode_data (block : Half) {payload : List Byte} (short : payload.length ≤ 512) :
    decode cfg (.frame (framed .data (encBe16 block ++ payload))) = .ok (.data block payload) := by
  have size : 2 + (encBe16 block ++ payload).length = 4 + payload.length := by
    rw [List.length_append, encBe16_length]
    omega
  refine decode_framed cfg (f := .data block payload) (by rw [size, kindBounds, dataHeader]; omega)
    (by rw [size, kindBounds, maxFrame]; omega) ?_
  rw [decodeFields, be16_framed, slice_framed]

theorem decode_ack (block : Half) : decode cfg (.frame (framed .ack (encBe16 block))) = .ok (.ack block) := by
  refine decode_framed cfg (f := .ack block) (Nat.le_refl 4) (Nat.le_refl 4) ?_
  rw [decodeFields, ← List.append_nil (encBe16 block), be16_framed]

theorem decode_error (code : Half) (short : 4 + junk.length ≤ 128) :
    decode cfg (.frame (framed .error (encBe16 code ++ junk))) = .ok (.error code) := by
  have size : 2 + (encBe16 code ++ junk).length = 4 + junk.length := by
    rw [List.length_append, encBe16_length]
    omega
  refine decode_framed cfg (f := .error code) (by rw [size, kindBounds]; omega) (by rw [size]; exact short) ?_
  rw [decodeFields, be16_framed]

theorem decode_command (code : Half) {tail : List Byte} (short : tail.length ≤ 512) :
    decode cfg (.frame (framed .command (encBe16 code ++ tail))) = .ok (Instr.ofCommand cfg code tail) := by
  have size : 2 + (encBe16 code ++ tail).length = 4 + tail.length := by
    rw [List.length_append, encBe16_length]
    omega
  refine decode_framed cfg (f := .cmd code tail) (by rw [size, kindBounds]; omega)
    (by rw [size, kindBounds, maxFrame]; omega) ?_
  rw [decodeFields, be16_framed, slice_framed]

theorem decode_debug (short : 2 + junk.length ≤ 516) :
    decode cfg (.frame (framed .debug junk)) = .ok .debug :=
  decode_framed cfg (f := .debug) (Nat.le_add_right 2 _) short rfl

end Kinds

/-! ### The rows of a Command frame (30_encoding.md R115) -/

/-- A command's code selects that command where R10 holds of the codes (42_command_dispatch.md R200). -/
theorem commandOf_of {cfg : Config} (codes : cfg.commandCodesOk) (k : Cmd) :
    commandOf cfg (cfg.cmdCodes.of k) = some k := by
  obtain ⟨differ, inRange, -⟩ := codes
  have all (k : Cmd) : k ∈ Cmd.all := by cases k <;> decide
  obtain ⟨low, high⟩ := inRange k (all k)
  rw [commandOf, if_neg (by simpa using ⟨low, high⟩)]
  cases found : Cmd.all.find? fun j => cfg.cmdCodes.of j == cfg.cmdCodes.of k with
  | none => exact absurd (List.find?_eq_none.mp found k (all k)) (by simp)
  | some j =>
    have same : cfg.cmdCodes.of j = cfg.cmdCodes.of k := by simpa using List.find?_some found
    rw [List.inj_on_of_nodup_map differ (all j) (all k) same]

theorem ofCommand_terminal {cfg : Config} (codes : cfg.commandCodesOk) {p : Instr × Cmd} (row : p ∈ Instr.terminal)
    (tail : List Byte) : Instr.ofCommand cfg (cfg.cmdCodes.of p.2) tail = p.1 := by
  rw [Instr.ofCommand, commandOf_of codes]
  simp only [Instr.terminal, List.mem_cons, List.not_mem_nil, or_false] at row
  rcases row with rfl | rfl | rfl | rfl | rfl | rfl | rfl | rfl | rfl | rfl | rfl | rfl <;> rfl

theorem ofCommand_crc {cfg : Config} (codes : cfg.commandCodesOk) (value : Word) (junk : List Byte) :
    Instr.ofCommand cfg cfg.cmdCodes.crc (encBe32 value ++ junk) = .cmdCrc value := by
  have found : commandOf cfg cfg.cmdCodes.crc = some .crc := commandOf_of codes .crc
  simp only [Instr.ofCommand, found, List.length_append, encBe32_length, be32_encBe32]
  exact if_neg (by omega)

/-- A Command frame that stands for no row below it is the row `CMD` itself. -/
theorem ofCommand_bare {cfg : Config} {code : Half} {tail : List Byte} (bare : bareCommand cfg code tail) :
    Instr.ofCommand cfg code tail = .cmd code tail := by
  cases found : commandOf cfg code with
  | none => simp only [Instr.ofCommand, found]
  | some k =>
    obtain ⟨rfl, short⟩ := bare k (by cases k <;> decide) (code_of_commandOf found)
    simp only [Instr.ofCommand, found, if_pos short]

/-- Settles O6: each kind's fields are decoded whatever bytes follow them. -/
theorem ignoredBytesHaveNoEffect : Obligations.IgnoredBytesHaveNoEffect := by
  intro cfg junk
  refine ⟨fun length name ok short => decode_rrq cfg length ok short, fun name ok short => decode_wrq cfg ok short,
    fun code short => decode_error cfg code short, fun p row codes short => ?_, fun value codes short => ?_,
    fun short => decode_debug cfg short⟩
  · exact (decode_command cfg _ (by omega)).trans (congrArg _ (ofCommand_terminal codes row junk))
  · rw [List.append_assoc _ (encBe32 value)]
    refine (decode_command cfg cfg.cmdCodes.crc ?_).trans (congrArg _ (ofCommand_crc codes value junk))
    rw [List.length_append, encBe32_length]
    omega

end Sys2Proof.Machine
end

section
/-! The operation word (spec/30_encoding.md R125, R126): its fields are exact, each operation has one word, and every
other word is refused; with the frames' part, decoding what was encoded gives it back. -/

namespace Sys2Proof

/-! ### The fields of a word (R125) -/

theorem ofBool_getLsbD_eq_extractLsb' (w : BitVec 48) (i : Nat) : BitVec.ofBool (w.getLsbD i) = w.extractLsb' i 1 := by
  refine BitVec.eq_of_getLsbD_eq fun j hj => ?_
  obtain rfl : j = 0 := by omega
  simp

/-- No bit of the 48 stands outside the fields. -/
theorem opWord_opFields (w : BitVec 48) : opWord (opFields w) = w := by
  have join {start₁ start₂ len₁ len₂ : Nat} (h : start₂ = start₁ + len₁) :=
    BitVec.extractLsb'_append_extractLsb'_eq_extractLsb' (x := w) (len₂ := len₂) h
  rw [opWord, opFields]
  simp only [ofBool_getLsbD_eq_extractLsb']
  rw [join (by rfl), join (by rfl), join (by rfl), join (by rfl), join (by rfl), BitVec.extractLsb'_eq_self]

/-- A field of a word of two parts, in the upper part. -/
theorem extractLsb'_upper {m n : Nat} (x : BitVec m) (y : BitVec n) (i len : Nat) :
    (x ++ y).extractLsb' (n + i) len = x.extractLsb' i len := by
  rw [BitVec.extractLsb'_append_eq_of_le (Nat.le_add_right n i), Nat.add_sub_cancel_left]

theorem getLsbD_upper {m n : Nat} (x : BitVec m) (y : BitVec n) (i : Nat) :
    (x ++ y).getLsbD (n + i) = x.getLsbD i := by
  rw [BitVec.getLsbD_append, if_neg (by omega), Nat.add_sub_cancel_left]

theorem getLsbD_append_ofBool {m : Nat} (x : BitVec m) (b : Bool) : (x ++ BitVec.ofBool b).getLsbD 0 = b := by
  rw [BitVec.getLsbD_append, if_pos Nat.zero_lt_one, BitVec.getLsbD_ofBool]
  simp

/-- The fields of the word of some fields: each stands above the parts to its right. -/
theorem opFields_opWord (f : OpFields) : opFields (opWord f) = f := by
  obtain ⟨code, reserved, sel, cat, bank, size⟩ := f
  rw [opFields, OpFields.mk.injEq]
  refine ⟨?_, ?_, ?_, ?_, ?_, BitVec.extractLsb'_append_eq_right⟩
  · show (code ++ reserved ++ sel ++ BitVec.ofBool cat ++ BitVec.ofBool bank ++ size).extractLsb'
      (32 + (1 + (1 + (2 + (4 + 0))))) 8 = code
    simp only [extractLsb'_upper, BitVec.extractLsb'_eq_self]
  · show (code ++ reserved ++ sel ++ BitVec.ofBool cat ++ BitVec.ofBool bank ++ size).extractLsb'
      (32 + (1 + (1 + (2 + 0)))) 4 = reserved
    simp only [extractLsb'_upper, BitVec.extractLsb'_append_eq_right]
  · show (code ++ reserved ++ sel ++ BitVec.ofBool cat ++ BitVec.ofBool bank ++ size).extractLsb'
      (32 + (1 + (1 + 0))) 2 = sel
    simp only [extractLsb'_upper, BitVec.extractLsb'_append_eq_right]
  · show (code ++ reserved ++ sel ++ BitVec.ofBool cat ++ BitVec.ofBool bank ++ size).getLsbD (32 + (1 + 0)) = cat
    rw [getLsbD_upper, getLsbD_upper, getLsbD_append_ofBool]
  · show (code ++ reserved ++ sel ++ BitVec.ofBool cat ++ BitVec.ofBool bank ++ size).getLsbD (32 + 0) = bank
    rw [getLsbD_upper, getLsbD_append_ofBool]

/-! ### The fields of an operation (R125) -/

@[simp] theorem catOf_catBit (c : Cat) : catOf (catBit c) = c := by cases c <;> rfl
@[simp] theorem catBit_catOf (b : Bool) : catBit (catOf b) = b := by cases b <;> rfl
@[simp] theorem bankOf_bankBit (b : Bank) : bankOf (bankBit b) = b := by cases b <;> rfl
@[simp] theorem bankBit_bankOf (b : Bool) : bankBit (bankOf b) = b := by cases b <;> rfl
@[simp] theorem selOf_selBits (a : Active) : selOf (selBits a) = some a := by cases a <;> rfl

theorem selBits_of_selOf {v : BitVec 2} {a : Active} (h : selOf v = some a) : selBits a = v := by
  revert v
  cases a <;> decide

/-- The fields that stand for an operation, the unused ones zero (R125, R126); every field is zero for a row of
another port. -/
def Instr.opFields : Instr → OpFields
  | .sessionReset => ⟨1, 0, 0, false, false, 0⟩
  | .load c => ⟨2, 0, 0, catBit c, false, 0⟩
  | .validate c b => ⟨3, 0, 0, catBit c, bankBit b, 0⟩
  | .swap c => ⟨4, 0, 0, catBit c, false, 0⟩
  | .fixCrc c b size => ⟨5, 0, 0, catBit c, bankBit b, size⟩
  | .commit c => ⟨6, 0, 0, catBit c, false, 0⟩
  | .crcRegion c b size => ⟨7, 0, 0, catBit c, bankBit b, size⟩
  | .crcBuf size _ => ⟨8, 0, 0, false, false, size⟩
  | .setActive c a => ⟨9, 0, selBits a, catBit c, false, 0⟩
  | _ => ⟨0, 0, 0, false, false, 0⟩

/-- The buffer an operation carries beside its word: CRC_BUF alone has one (R125). -/
def Instr.opBuffer : Instr → List Byte
  | .crcBuf _ buffer => buffer
  | _ => []

/-- An operation is encoded by the word of its fields. -/
theorem encode_operation (cfg : Config) {i : Instr} (operation : i.isOperation = true) :
    encode cfg i = some (.operation (opWord i.opFields) i.opBuffer) := by
  cases i with
  | sessionReset | load | validate | swap | fixCrc | commit | crcRegion | crcBuf | setActive => rfl
  | _ => cases operation

/-- The word of an operation's fields decodes to it. -/
theorem decodeOperation_opWord {i : Instr} (operation : i.isOperation = true) :
    decodeOperation (opWord i.opFields) i.opBuffer = .ok i := by
  cases i with
  | sessionReset | load | validate | swap | fixCrc | commit | crcRegion | crcBuf | setActive =>
    simp [decodeOperation, opFields_opWord, Instr.opFields, Instr.opBuffer]
  | _ => cases operation

/-- A word that decodes holds the fields of what it decodes to, and CRC_BUF alone takes the buffer. -/
theorem fields_of_decodeOperation {i : Instr} {w : BitVec 48} {buffer : List Byte}
    (h : decodeOperation w buffer = .ok i) :
    opFields w = i.opFields ∧ i.opBuffer = if (opFields w).code.toNat = 8 then buffer else [] := by
  have row {p : Prop} [Decidable p] {j : Instr}
      (h : (if p then .ok j else .error .badOperation : Except Reject Instr) = .ok i) : p ∧ j = i := by
    split at h
    · exact ⟨‹p›, Except.ok.inj h⟩
    · cases h
  unfold decodeOperation at h
  generalize opFields w = f at h ⊢
  obtain ⟨code, reserved, sel, cat, bank, size⟩ := f
  simp only at h
  split at h
  · cases h
  obtain rfl : reserved = 0 := not_not.mp ‹_›
  have isCode {n : Byte} (h : code.toNat = n.toNat) : code = n := BitVec.eq_of_toNat_eq h
  split at h
  case h_1 number =>
    obtain ⟨⟨rfl, rfl, rfl, rfl⟩, rfl⟩ := row h
    simp [Instr.opFields, Instr.opBuffer, isCode (n := 1) number]
  case h_2 number =>
    obtain ⟨⟨rfl, rfl, rfl⟩, rfl⟩ := row h
    simp [Instr.opFields, Instr.opBuffer, isCode (n := 2) number]
  case h_3 number =>
    obtain ⟨⟨rfl, rfl⟩, rfl⟩ := row h
    simp [Instr.opFields, Instr.opBuffer, isCode (n := 3) number]
  case h_4 number =>
    obtain ⟨⟨rfl, rfl, rfl⟩, rfl⟩ := row h
    simp [Instr.opFields, Instr.opBuffer, isCode (n := 4) number]
  case h_5 number =>
    obtain ⟨rfl, rfl⟩ := row h
    simp [Instr.opFields, Instr.opBuffer, isCode (n := 5) number]
  case h_6 number =>
    obtain ⟨⟨rfl, rfl, rfl⟩, rfl⟩ := row h
    simp [Instr.opFields, Instr.opBuffer, isCode (n := 6) number]
  case h_7 number =>
    obtain ⟨rfl, rfl⟩ := row h
    simp [Instr.opFields, Instr.opBuffer, isCode (n := 7) number]
  case h_8 number =>
    obtain ⟨⟨rfl, rfl, rfl⟩, rfl⟩ := row h
    simp [Instr.opFields, Instr.opBuffer, isCode (n := 8) number]
  case h_9 number =>
    split at h
    case h_1 selected =>
      obtain ⟨⟨rfl, rfl⟩, rfl⟩ := row h
      simp [Instr.opFields, Instr.opBuffer, isCode (n := 9) number, selBits_of_selOf selected]
    case h_2 => cases h
  case h_10 => cases h

end Sys2Proof

namespace Sys2Proof.Machine

/-- Settles O5: the word is the word of its fields. -/
theorem operationWordsAreExact : Obligations.OperationWordsAreExact := by
  intro cfg w buffer i h
  obtain ⟨fields, supplied⟩ := fields_of_decodeOperation (h : decodeOperation w buffer = .ok i)
  rw [encode_operation cfg (isOperation_of_decodeOperation h), ← fields, opWord_opFields, supplied]
  rfl

/-- Settles O3: none of the conditions holds of the fields of an operation, so the word decodes to none. -/
theorem badOperationsRefused : Obligations.BadOperationsRefused := by
  intro s w buffer rest front bad
  cases row : decode s.cfg (.operation w buffer) with
  | error x => exact step_refusedOperation front row
  | ok i =>
    have operation := isOperation_of_decodeOperation row
    have fields := (fields_of_decodeOperation row).1
    obtain ⟨code, reserved, sel, cat, bank, size⟩ := OpFields.mk.inj (fields : opFields w = ⟨_, _, _, _, _, _⟩)
    rw [code, reserved, sel, cat, bank, size] at bad
    cases i with
    | setActive c a => cases a <;> simp [selBits] at bad
    | sessionReset | load | validate | swap | fixCrc | commit | crcRegion | crcBuf => simp at bad
    | _ => cases operation

/-! ### Decoding what was encoded -/

/-- A terminal row is encoded by its command's code alone (R115). -/
theorem encode_terminal (cfg : Config) {p : Instr × Cmd} (row : p ∈ Instr.terminal) :
    encode cfg p.1 = some (commandEvent (cfg.cmdCodes.of p.2)) := by
  simp only [Instr.terminal, List.mem_cons, List.not_mem_nil, or_false] at row
  rcases row with rfl | rfl | rfl | rfl | rfl | rfl | rfl | rfl | rfl | rfl | rfl | rfl <;> rfl

theorem decode_encode_terminal {cfg : Config} (codes : cfg.commandCodesOk) {p : Instr × Cmd}
    (row : p ∈ Instr.terminal) : decode cfg (commandEvent (cfg.cmdCodes.of p.2)) = .ok p.1 :=
  (decode_command cfg _ (tail := []) (Nat.zero_le 512)).trans (congrArg _ (ofCommand_terminal codes row []))

/-- Settles O4: operations decode by the fields of their word, terminal rows by their command's code, the other
frames by their kind. -/
theorem decodeOfEncode : Obligations.DecodeOfEncode := by
  intro cfg i e codes ok encoded
  by_cases operation : i.isOperation = true
  · rw [encode_operation cfg operation] at encoded
    exact Option.some.inj encoded ▸ decodeOperation_opWord operation
  by_cases row : ∃ k, (i, k) ∈ Instr.terminal
  · obtain ⟨k, row⟩ := row
    rw [encode_terminal cfg row] at encoded
    exact Option.some.inj encoded ▸ decode_encode_terminal codes row
  cases i with
  | rrq length name =>
    have short : name.length ≤ 7 := ok.1
    have decoded := decode_rrq cfg length (junk := []) ok (by rw [List.length_nil]; omega)
    rw [List.append_nil] at decoded
    exact Option.some.inj encoded ▸ decoded
  | wrq name =>
    have short : name.length ≤ 7 := ok.1
    have decoded := decode_wrq cfg (junk := []) ok (by rw [List.length_nil]; omega)
    rw [List.append_nil] at decoded
    exact Option.some.inj encoded ▸ decoded
  | data block payload => exact Option.some.inj encoded ▸ decode_data cfg block ok
  | ack block => exact Option.some.inj encoded ▸ decode_ack cfg block
  | error code => exact Option.some.inj encoded ▸ decode_error cfg code (junk := []) (by decide)
  | cmd code tail =>
    obtain ⟨short, bare⟩ := ok
    exact Option.some.inj encoded ▸ (decode_command cfg code short).trans (congrArg _ (ofCommand_bare bare))
  | debug => exact Option.some.inj encoded ▸ decode_debug cfg (junk := []) (by decide)
  | cmdCrc value =>
    have short : (encBe32 value).length ≤ 512 := by rw [encBe32_length]; decide
    exact Option.some.inj encoded ▸ (decode_command cfg _ short).trans (congrArg _ (ofCommand_crc codes value []))
  | empty => exact Option.some.inj encoded ▸ rfl
  | frameIn | crcInit | crcUpdate | crcFinal => cases encoded
  | cmdBoot | cmdReset | cmdSwap | cmdBootInfo | cmdPowerOn | cmdPowerOff | cmdEnd | cmdSpiEnd | cmdTriggerWatchdog
  | cmdEraseSpi | cmdSetBank0 | cmdSetBank1 => simp [Instr.terminal] at row
  | sessionReset | load | validate | swap | fixCrc | commit | crcRegion | crcBuf | setActive =>
    exact absurd rfl operation

/-- Settles O7: the decoder evaluates each word to its instruction. -/
theorem wordsOfTheSpec : Obligations.WordsOfTheSpec :=
  ⟨rfl, rfl, rfl, rfl, rfl, rfl, rfl, rfl, rfl, rfl, rfl⟩

end Sys2Proof.Machine
end

section
/-! What no operation changes, whatever state it meets (spec/60_exceptions.md R317; spec/44_descriptor_validator.md
R260, R270, R279; spec/70_reset_and_hazards.md R345): the registers of the session and the transfer, and every byte
but those of the areas it binds. -/

namespace Sys2Proof.Machine

/-! ### What an action leaves alone -/

/-- The configuration, TXQ and the registers of the session and the transfer, which no operation but SESSION_RESET
writes (44_descriptor_validator.md R260). -/
def State.sessionPart (s : State) :=
  (s.cfg, s.txq, s.sessionOpen, s.emptyReads, s.tc, s.dir, s.rbOff, s.sbTx)

/-- From `s` to `t` the session's registers stay, no tape gains a loss of power, and no byte outside `W` changes. -/
structure Spares (W : Device → Nat → Prop) (s t : State) : Prop where
  session : t.sessionPart = s.sessionPart
  power : s.powerHolds → t.powerHolds
  canonical : (∀ d, Memory.wf (s.store d)) → ∀ d, Memory.wf (t.store d)
  bytes : (∀ d, Memory.wf (s.store d)) → ∀ d a, t.byte d a ≠ s.byte d a → W d a

section Spares
variable {W : Device → Nat → Prop} {s t u : State}

theorem Spares.of_registers (session : t.sessionPart = s.sessionPart) (fates : t.storageFates = s.storageFates)
    (store : ∀ d, t.store d = s.store d) : Spares W s t where
  session := session
  power := fun h => by
    unfold State.powerHolds
    rwa [fates]
  canonical := fun wf d => store d ▸ wf d
  bytes := fun _ d a change => absurd (by rw [State.byte, store, State.byte]) change

theorem Spares.refl (W : Device → Nat → Prop) (s : State) : Spares W s s := .of_registers rfl rfl fun _ => rfl

theorem Spares.trans (h : Spares W s t) (h' : Spares W t u) : Spares W s u where
  session := h'.session.trans h.session
  power := fun p => h'.power (h.power p)
  canonical := fun wf => h'.canonical (h.canonical wf)
  bytes := fun wf d a change => by
    by_cases same : t.byte d a = s.byte d a
    · exact h'.bytes (h.canonical wf) d a (same ▸ change)
    · exact h.bytes wf d a same

theorem Spares.mono {W' : Device → Nat → Prop} (h : Spares W s t) (sub : ∀ d a, W d a → W' d a) : Spares W' s t :=
  { h with bytes := fun wf d a change => sub d a (h.bytes wf d a change) }

theorem Spares.cfg (h : Spares W s t) : t.cfg = s.cfg := congrArg (·.1) h.session

theorem Called.spares (call : Called .pm W s t) : Spares W s t where
  session := by
    obtain ⟨_, _, _, _, _, _, rfl⟩ := call.registers
    rfl
  power := fun h f hf => h f (List.mem_of_mem_tail (call.fates ▸ hf))
  canonical := fun wf d => call.canonical d (wf d)
  bytes := fun wf d => call.bytes d (wf d)

theorem Spares.setBc (s : State) (c : Cat) (ctx : BootContext) : Spares W s (s.setBc c ctx) :=
  .of_registers (by cases c <;> rfl) (by simp) (by simp)

theorem Spares.setLoaded (s : State) (c : Cat) : Spares W s (s.setLoaded c) :=
  .of_registers (by cases c <;> rfl) (by simp) (by cases c <;> exact fun _ => rfl)

theorem Spares.markCorrupt (s : State) (c : Cat) : Spares W s (s.markCorrupt c) :=
  .of_registers (by cases c <;> rfl) (by cases c <;> rfl) (by cases c <;> exact fun _ => rfl)

end Spares

/-- How an action of an operation may stop. -/
def SparedStop (W : Device → Nat → Prop) (s : State) (e : Stop) (t : State) : Prop :=
  Spares W s t ∧ (e = .powerLost → ¬ s.powerHolds)

/-- Under the record `cfg`, an action that begins with SB_PM at an area of `P` ends with it at one of `Q`, changes no
byte outside `W` and leaves the session alone. -/
def Works (cfg : Config) (P Q : Area → Prop) (W : Device → Nat → Prop) {α : Type} (x : Act α) : Prop :=
  ∀ s, s.cfg = cfg → P s.sbPm.area → Ends x s (fun _ t => Spares W s t ∧ Q t.sbPm.area) (SparedStop W s)

/-- Any area. -/
abbrev anywhere : Area → Prop := fun _ => True

section Works
variable {cfg : Config} {P Q R : Area → Prop} {W : Device → Nat → Prop} {α β : Type}

theorem works_bind {x : Act β} {f : β → Act α} (hx : Works cfg P Q W x) (hf : ∀ b, Works cfg Q R W (f b)) :
    Works cfg P R W (x >>= f) := fun s record there =>
  (ends_bind x f).mpr ((hx s record there).mono
    (fun b t ⟨spares, there⟩ => (hf b t (spares.cfg.trans record) there).mono
      (fun _ _ ⟨spares', there⟩ => ⟨spares.trans spares', there⟩)
      fun _ _ ⟨spares', power⟩ => ⟨spares.trans spares', fun lost holds => power lost (spares.power holds)⟩)
    fun _ _ stop => stop)

theorem works_pure (a : α) : Works cfg P P W (pure a) := fun s _ there => ⟨.refl W s, there⟩

theorem works_raise (e : Err) : Works cfg P Q W (raise e : Act α) := fun s _ _ => ⟨.refl W s, nofun⟩

theorem works_get {f : State → Act α} (hf : ∀ s, s.cfg = cfg → Works cfg P Q W (f s)) :
    Works cfg P Q W (get >>= f) := fun s record => hf s record s record

theorem works_modify {f : State → State} (spares : ∀ s, Spares W s (f s)) :
    Works cfg anywhere anywhere W (modify f : Act PUnit) := fun s _ _ => ⟨spares s, trivial⟩

theorem works_requireLoaded (c : Cat) : Works cfg P P W (requireLoaded c) := fun s _ there =>
  (ends_require _ _).mpr ⟨fun _ => ⟨.refl W s, there⟩, fun _ => ⟨.refl W s, nofun⟩⟩

theorem works_memBind (A : Area) : Works cfg P (· = A) W (memBind .pm A) := fun _ _ _ =>
  ⟨.of_registers rfl rfl fun _ => rfl, rfl⟩

theorem works_memClose : Works cfg P anywhere W (memClose .pm) := fun _ _ _ =>
  ⟨.of_registers rfl rfl fun _ => rfl, trivial⟩

/-! ### The storage calls (20_memory.md R63 to R67) -/

theorem sparedStop_broke {s t : State} {e : Stop} (broke : Broke .pm W s e t) : SparedStop W s e t := by
  cases e with
  | raised => exact broke.elim
  | powerLost => exact ⟨broke.1.spares, fun _ => broke.2⟩
  | fault => exact ⟨broke.1.spares, nofun⟩

/-- A storage call through SB_PM that addresses bytes of `W` only. -/
theorem works_call {x : Act α} {V : State → Device → Nat → Prop}
    (sub : ∀ s, P s.sbPm.area → ∀ d a, V s d a → W d a)
    (call : ∀ s, Ends x s (fun _ t => Called .pm (V s) s t) (Broke .pm (V s) s)) : Works cfg P P W x :=
  fun s _ there => (call s).mono
    (fun _ _ called => ⟨called.spares.mono (sub s there), called.pm_area ▸ there⟩)
    fun _ _ broke => ⟨(sparedStop_broke broke).1.mono (sub s there), (sparedStop_broke broke).2⟩

/-- A storage call through SB_PM that addresses no byte. -/
theorem works_reading {x : Act α}
    (call : ∀ s, Ends x s (fun _ t => Called .pm nowhere s t) (Broke .pm nowhere s)) : Works cfg P P W x :=
  works_call (V := fun _ => nowhere) (fun _ _ _ _ => False.elim) call

theorem works_memInit : Works cfg P P W (memInit .pm) :=
  works_reading fun s => (ends_memInit .pm s).mono (fun _ _ done => done.1) fun _ _ lost => lost.broke

theorem works_memFlush : Works cfg P P W (memFlush .pm) :=
  works_reading fun s => (ends_memFlush .pm s).mono (fun _ _ done => done.1) fun _ _ lost => lost.broke

theorem works_memRead (off n : Nat) : Works cfg P P W (memRead .pm off n) :=
  works_reading fun s => (ends_memRead .pm s off n).mono (fun _ _ done => done.1) fun _ _ stop => stop

theorem works_regionCrc (n : Word) : Works cfg P P W (regionCrc .pm n) :=
  works_reading fun s => (ends_regionCrc .pm s n).mono (fun _ _ done => done.1) fun _ _ stop => stop

theorem works_memErase {A : Area} (sub : ∀ d a, A.covers d a → W d a) :
    Works cfg (· = A) (· = A) W (memErase .pm) :=
  works_call (V := fun s => (s.handle .pm).erases) (fun _ here d a erased => sub d a (here ▸ erased.2)) fun s =>
    (ends_memErase .pm s).mono (fun _ _ done => done.1) fun _ _ stop => stop

theorem works_memWrite {A : Area} (sub : ∀ d a, A.covers d a → W d a) (bytes : List Byte) :
    Works cfg (· = A) (· = A) W (memWrite .pm bytes) :=
  works_call (V := fun s => (s.handle .pm).writes bytes.length)
    (fun _ here d a written => sub d a (here ▸ written.1.2)) fun s =>
      (ends_memWrite .pm s bytes).mono (fun _ _ done => done.1) fun _ _ stop => stop

/-! ### The parts of an operation -/

/-- What follows an action that answers true. -/
theorem works_ite {body : Act α} (hbody : Works cfg P P W body) (d : α) (ok : Bool) :
    Works cfg P P W (if ok = true then body else pure d) := by
  cases ok with
  | true => exact hbody
  | false => exact works_pure d

/-- A part of an operation: SB_PM bound, its area tried, the body run where that answers true, SB_PM closed
(44_descriptor_validator.md R260). -/
theorem works_bracket (A : Area) {x : Act Bool} {body : Act β} {d : β} {k : β → Act α}
    (hx : Works cfg (· = A) (· = A) W x) (hbody : Works cfg (· = A) (· = A) W body)
    (hk : ∀ r, Works cfg anywhere anywhere W (k r)) :
    Works cfg anywhere anywhere W (do
      memBind .pm A
      let r ← if ← x then body else pure d
      memClose .pm
      k r) := by
  have close (r : β) : Works cfg (· = A) anywhere W (memClose .pm >>= fun _ => k r) :=
    works_bind works_memClose fun _ => hk r
  refine works_bind (works_memBind A) fun _ => works_bind hx fun ok => ?_
  cases ok with
  | true => exact works_bind hbody close
  | false => exact works_bind (works_pure d) close

theorem works_readCopy (c : Cat) (which : Copy) : Works cfg anywhere anywhere W (readCopy c which) :=
  works_get fun _ _ => works_bracket _ works_memInit (works_memRead _ _) works_pure

theorem works_writeCopy {A : Area} (sub : ∀ d a, A.covers d a → W d a) (image : List Byte) :
    Works cfg (· = A) (· = A) W (writeCopy image) :=
  works_bind works_memInit <| works_ite (works_bind (works_memErase sub) <| works_ite
    (works_bind (works_memWrite sub image) <| works_ite
      (works_bind works_memFlush fun _ => works_pure _) false) false) false

/-- The bytes of a category's two context sectors (44_descriptor_validator.md R262). -/
def copiesCover (cfg : Config) (c : Cat) (d : Device) (a : Nat) : Prop := ∃ which, (copyArea cfg c which).covers d a

/-- The bytes of a category's two banks as the configuration places them (20_memory.md R78). -/
def banksCover (cfg : Config) (c : Cat) (d : Device) (a : Nat) : Prop := ∃ b, (configuredArea cfg c b).covers d a

theorem works_installContext (c : Cat) (ctx : BootContext) (src : LoadSource) (ok : Bool) :
    Works cfg anywhere anywhere W (installContext c ctx src ok) :=
  works_bind (works_modify fun s => (Spares.setBc s c ctx).trans (.setLoaded _ c)) fun _ => works_pure _

theorem works_bankCrc (c : Cat) (b : Bank) (size : Word) : Works cfg anywhere anywhere W (bankCrc c b size) := by
  refine works_get fun s _ => works_bracket _ works_memInit (works_regionCrc _) fun v => ?_
  cases v with
  | none => exact works_raise _
  | some v => exact works_pure v

section Persist
variable {c : Cat} (copies : ∀ d a, copiesCover cfg c d a → W d a)
include copies

theorem works_persistCopy (which : Copy) (ctx : BootContext) :
    Works cfg anywhere anywhere W (persistCopy c which ctx) :=
  works_get fun _ record => works_bracket _
    (works_writeCopy (fun d a covered => copies d a ⟨which, record ▸ covered⟩) _) (works_memRead _ _)
    fun _ => works_pure _

theorem works_persistBoth : Works cfg anywhere anywhere W (persistBoth c) :=
  works_bind (works_modify fun s => .setBc s c _) fun _ => works_get fun _ _ =>
    works_bind (works_persistCopy copies .primary _) (works_ite (works_persistCopy copies .backup _) false)

/-! ### The operations that write a context (44_descriptor_validator.md R265 to R276) -/

theorem works_swapRule : Works cfg anywhere anywhere W (swapRule c) :=
  works_bind (works_requireLoaded c) fun _ => works_bind (works_modify fun s => .setBc s c _) fun _ =>
    works_get fun _ _ => works_bind (works_persistBoth copies) fun _ => works_pure _

theorem works_fixCrcRule (b : Bank) (size : Word) : Works cfg anywhere anywhere W (fixCrcRule c b size) :=
  works_bind (works_requireLoaded c) fun _ => works_bind (works_bankCrc c b size) fun _ =>
    works_bind (works_modify fun s => .setBc s c _) fun _ =>
      works_bind (works_persistBoth copies) fun _ => works_pure _

theorem works_commitRule : Works cfg anywhere anywhere W (commitRule c) :=
  works_bind (works_requireLoaded c) fun _ => works_bind (works_persistBoth copies) fun _ => works_pure _

theorem works_loadFresh : Works cfg anywhere anywhere W (loadFresh c) :=
  works_get fun _ _ => works_bind (works_modify fun s => .setBc s c _) fun _ =>
    works_bind (works_persistBoth copies) fun _ => works_installContext _ _ _ _

theorem works_loadRepair (ctx : BootContext) (src : LoadSource) (bad : Copy) :
    Works cfg anywhere anywhere W (loadRepair c ctx src bad) :=
  works_bind (works_persistCopy copies bad ctx) fun _ => works_installContext _ _ _ _

variable (banks : ∀ d a, banksCover cfg c d a → W d a)
include banks

omit copies in
theorem works_eraseBank (b : Bank) : Works cfg anywhere anywhere W (eraseBank c b) :=
  works_get fun _ record => works_bracket _ works_memInit
    (works_memErase fun d a covered => banks d a ⟨b, record ▸ covered⟩) works_pure

theorem works_loadCorrupt : Works cfg anywhere anywhere W (loadCorrupt c) :=
  works_bind (works_modify fun s => .markCorrupt s c) fun _ => works_bind (works_eraseBank banks .b0) fun _ =>
    works_bind (works_eraseBank banks .b1) fun _ => works_get fun _ _ =>
      works_bind (works_modify fun s => .setBc s c _) fun _ =>
        works_bind (works_persistBoth copies) fun _ => works_installContext _ _ _ _

theorem works_loadCases (p b : List Byte) : Works cfg anywhere anywhere W (loadCases c p b) := by
  refine works_get fun s _ => ?_
  cases primary : copyStatus s.cfg c p <;> cases backup : copyStatus s.cfg c b <;> simp only [primary, backup]
  case valid.valid =>
    by_cases same : p = b
    · rw [if_pos same]
      exact works_installContext _ _ _ _
    · rw [if_neg same]
      exact works_loadRepair copies _ _ _
  case invalid.invalid => exact works_loadCorrupt copies banks
  case empty.empty | empty.invalid | invalid.empty => exact works_loadFresh copies
  all_goals exact works_loadRepair copies _ _ _

theorem works_loadRule : Works cfg anywhere anywhere W (loadRule c) := by
  refine works_bind (works_readCopy c .primary) fun p => ?_
  cases p with
  | none => exact works_raise _
  | some p =>
    refine works_bind (works_readCopy c .backup) fun b => ?_
    cases b with
    | none => exact works_raise _
    | some b => exact works_loadCases copies banks p b

end Persist

/-! ### The operations that write no byte (44_descriptor_validator.md R270, R279; 40_crc_engine.md R150, R151) -/

theorem works_bankStatus (d : Descriptor) (n : Word) : Works cfg P P W (bankStatus d n) := by
  refine works_bind (works_regionCrc n) fun v => ?_
  cases v with
  | none => exact works_pure _
  | some v =>
    dsimp only
    by_cases same : v = d.crc32
    · rw [if_pos same]
      exact works_pure _
    · rw [if_neg same]
      by_cases zero : v = 0
      · rw [if_pos zero]
        exact works_bind (works_regionCrc n) fun _ => works_pure _
      · rw [if_neg zero]
        exact works_pure _

theorem works_validateRule (c : Cat) (b : Bank) : Works cfg anywhere anywhere W (validateRule c b) := by
  refine works_bind (works_requireLoaded c) fun _ => works_get fun s _ => ?_
  by_cases empty : (s.desc c b).crc32 = sentinelCrc
  · simp only [empty, if_true]
    exact works_pure _
  · simp only [empty, if_false]
    exact works_bracket _ works_memInit (works_bankStatus _ _) fun _ => works_pure _

theorem works_setActiveRule (c : Cat) (a : Active) : Works cfg anywhere anywhere W (setActiveRule c a) :=
  works_bind (works_requireLoaded c) fun _ => works_bind (works_modify fun s => .setBc s c _) fun _ => works_pure _

theorem works_crcRegionRule (c : Cat) (b : Bank) (size : Word) :
    Works cfg anywhere anywhere W (crcRegionRule c b size) :=
  works_bind (works_requireLoaded c) fun _ => works_bind (works_bankCrc c b size) fun _ => works_pure _

theorem works_crcBufRule (size : Word) (buffer : List Byte) :
    Works cfg anywhere anywhere W (crcBufRule size buffer) := fun _ _ _ =>
  ⟨.of_registers rfl rfl fun _ => rfl, trivial⟩

end Works

/-! ### An operation's step -/

/-- The bytes an operation may change (60_exceptions.md R317 (a)). -/
def operationBytes (cfg : Config) : Instr → Device → Nat → Prop
  | .load c => fun d a => copiesCover cfg c d a ∨ banksCover cfg c d a
  | .swap c | .commit c | .fixCrc c _ _ => copiesCover cfg c
  | _ => nowhere

/-- What an operation's step leaves alone, power lost or not (60_exceptions.md R317; 70_reset_and_hazards.md R345). -/
structure OperationSpares (W : Device → Nat → Prop) (s t : State) : Prop where
  session : s.powerHolds → t.sessionPart = s.sessionPart
  bytes : (∀ d, Memory.wf (s.store d)) → ∀ d a, t.byte d a ≠ s.byte d a → W d a

theorem operationStep_spares {W : Device → Nat → Prop} {rule : Act StepOutcome} {s t : State}
    (works : Works s.cfg anywhere anywhere W rule) (step : operationStep rule s = .next t) :
    OperationSpares W s t := by
  have ends := works s rfl trivial
  rcases operationStep_cases step with ⟨v, u, ran, rfl⟩ | ⟨e, u, ran, rfl⟩ | ⟨u, ran, rfl⟩
  · obtain ⟨spares, -⟩ := ends.ok ran
    exact ⟨fun _ => spares.session, spares.bytes⟩
  · obtain ⟨spares, -⟩ := ends.error ran
    exact ⟨fun _ => spares.session, spares.bytes⟩
  · obtain ⟨spares, power⟩ := ends.error ran
    exact ⟨fun holds => absurd holds (power rfl), spares.bytes⟩

/-- What every operation leaves alone but SESSION_RESET, which begins the session afresh. -/
theorem exec_isOperation_spares {s t : State} {i : Instr} (operation : i.isOperation = true)
    (other : i ≠ .sessionReset) (step : exec i s = .next t) : OperationSpares (operationBytes s.cfg i) s t := by
  cases i with
  | sessionReset => exact absurd rfl other
  | load c => exact operationStep_spares (works_loadRule (fun _ _ => .inl) fun _ _ => .inr) step
  | swap c => exact operationStep_spares (works_swapRule fun _ _ => id) step
  | commit c => exact operationStep_spares (works_commitRule fun _ _ => id) step
  | fixCrc c b size => exact operationStep_spares (works_fixCrcRule (fun _ _ => id) b size) step
  | validate c b => exact operationStep_spares (works_validateRule c b) step
  | crcRegion c b size => exact operationStep_spares (works_crcRegionRule c b size) step
  | crcBuf size buffer => exact operationStep_spares (works_crcBufRule size buffer) step
  | setActive c a => exact operationStep_spares (works_setActiveRule c a) step
  | _ => cases operation

/-- Settles O57: what every operation leaves alone, read register by register and byte by byte. -/
theorem operationLimits : Obligations.OperationLimits := by
  intro s t i operation flash spi step
  by_cases reset : i = .sessionReset
  · subst reset
    obtain rfl : finish .proceed (reopenSession s) = t := Host.Outcome.next.inj step
    exact ⟨fun d a change => absurd rfl change, fun _ => ⟨rfl, fun other => absurd rfl other⟩⟩
  have spares := exec_isOperation_spares operation reset step
  refine ⟨fun d a change => ?_, fun holds => ?_⟩
  · have covered := spares.bytes (fun d => by cases d <;> [exact flash; exact spi]) d a change
    cases i with
    | load c => exact ⟨c, covered.imp (fun copies => ⟨.inl rfl, copies⟩) fun banks => ⟨rfl, banks⟩⟩
    | swap c => exact ⟨c, .inl ⟨.inr (.inl rfl), covered⟩⟩
    | commit c => exact ⟨c, .inl ⟨.inr (.inr (.inl rfl)), covered⟩⟩
    | fixCrc c b size => exact ⟨c, .inl ⟨.inr (.inr (.inr ⟨b, size, rfl⟩)), covered⟩⟩
    | _ => exact covered.elim
  · have session := spares.session holds
    simp only [State.sessionPart, Prod.mk.injEq] at session
    obtain ⟨-, txq, rest⟩ := session
    exact ⟨txq, fun _ => rest⟩

end Sys2Proof.Machine
end

section
/-! What a step emits (spec/43_session_driver.md R234, R236; spec/30_encoding.md R114; spec/60_exceptions.md R303,
R307): a rule that raises has emitted nothing, one that finishes at most one frame, and the error reply is the last. -/

namespace Sys2Proof.Machine

/-! ### Emitting nothing -/

/-- From `s` to `t` nothing is emitted and the configuration stays. -/
structure Quiet (s t : State) : Prop where
  cfg : t.cfg = s.cfg
  txq : t.txq = s.txq
  txFaults : t.txFaults = s.txFaults
  power : s.powerHolds → t.powerHolds

/-- The frames a rule may emit (30_encoding.md R114): an Ack, a Data frame of at most 512 bytes, a terminating
command. -/
inductive Listed (cfg : Config) : List Byte → Prop where
  | ack (block : Half) : Listed cfg (Frame.bytes (.ack block))
  | data (block : Half) {payload : List Byte} (short : payload.length ≤ 512) :
    Listed cfg (Frame.bytes (.data block payload))
  | terminating (c : Cat) : Listed cfg (terminatingCommand cfg c)

/-- How a rule begun in `s` may finish: it reports no error and has emitted at most one listed frame, and then only as
it goes on. -/
def Sent (s : State) (v : StepOutcome) (t : State) : Prop :=
  (∀ e, v ≠ .error e) ∧ (t.txq = s.txq ∨ v = .proceed ∧ ∃ f, t.txq = s.txq ++ [f] ∧ Listed s.cfg f)

/-- How a rule begun in `s` may stop: nothing is emitted, and an error without effect is raised before any change. -/
structure QuietStop (s : State) (e : Stop) (t : State) : Prop where
  cfg : t.cfg = s.cfg
  txq : t.txq = s.txq
  txFaults : s.txFaults = [] → t.txFaults = []
  unchanged : ∀ x, e = .raised x → harmless x → t = s
  power : e = .powerLost → ¬ s.powerHolds

/-- Run from `s`, a rule emits at most one frame, and none where it stops. -/
abbrev Speaks (rule : Act StepOutcome) (s : State) : Prop := Ends rule s (Sent s) (QuietStop s)

section Quiet
variable {s t u : State} {α : Type}

theorem Quiet.of_registers (cfg : t.cfg = s.cfg) (txq : t.txq = s.txq) (txFaults : t.txFaults = s.txFaults)
    (fates : t.storageFates = s.storageFates) : Quiet s t where
  cfg := cfg
  txq := txq
  txFaults := txFaults
  power := fun h => by
    unfold State.powerHolds
    rwa [fates]

theorem Quiet.refl (s : State) : Quiet s s := .of_registers rfl rfl rfl rfl

theorem Quiet.trans (h : Quiet s t) (h' : Quiet t u) : Quiet s u where
  cfg := h'.cfg.trans h.cfg
  txq := h'.txq.trans h.txq
  txFaults := h'.txFaults.trans h.txFaults
  power := fun holds => h'.power (h.power holds)

theorem Called.quiet {h : HandleId} {W : Device → Nat → Prop} (call : Called h W s t) : Quiet s t where
  cfg := by
    obtain ⟨_, _, _, _, _, _, rfl⟩ := call.registers
    simp
  txq := by
    obtain ⟨_, _, _, _, _, _, rfl⟩ := call.registers
    simp
  txFaults := by
    obtain ⟨_, _, _, _, _, _, rfl⟩ := call.registers
    simp
  power := fun holds f hf => holds f (List.mem_of_mem_tail (call.fates ▸ hf))

theorem takeError_quiet (e : Err) (s : State) : Quiet s (takeError e s) := by
  cases e with
  | transport c => cases c <;> exact .of_registers rfl rfl rfl rfl
  | _ => exact .of_registers rfl rfl rfl rfl

theorem Sent.of_quiet (quiet : Quiet s t) {v : StepOutcome} (fine : ∀ e, v ≠ .error e) : Sent s v t :=
  ⟨fine, .inl quiet.txq⟩

/-- An error without effect, raised before any change. -/
theorem quietStop_raised (e : Err) (s : State) : QuietStop s (.raised e) s :=
  ⟨rfl, rfl, id, fun _ _ _ => rfl, nofun⟩

/-- An error with an effect, raised later. -/
theorem Quiet.stop_raised (quiet : Quiet s t) {e : Err} (he : ¬ harmless e) : QuietStop s (.raised e) t where
  cfg := quiet.cfg
  txq := quiet.txq
  txFaults := fun none => quiet.txFaults.trans none
  unchanged := fun _ same harm => absurd (Stop.raised.inj same ▸ harm) he
  power := nofun

theorem Quiet.stop_fault (quiet : Quiet s t) (f : Fault) : QuietStop s (.fault f) t where
  cfg := quiet.cfg
  txq := quiet.txq
  txFaults := fun none => quiet.txFaults.trans none
  unchanged := nofun
  power := nofun

theorem Quiet.stop_broke (quiet : Quiet s t) {h : HandleId} {W : Device → Nat → Prop} {e : Stop}
    (broke : Broke h W t e u) : QuietStop s e u := by
  cases e with
  | raised => exact broke.elim
  | powerLost =>
    have later := quiet.trans broke.1.quiet
    exact ⟨later.cfg, later.txq, fun none => later.txFaults.trans none, nofun,
      fun _ holds => broke.2 (quiet.power holds)⟩
  | fault f => exact (quiet.trans broke.1.quiet).stop_fault f

/-- An emission: the frame at the end of TXQ, or nothing and `Transport(Write)` (43_session_driver.md R234). -/
theorem Quiet.ends_emit (quiet : Quiet s t) (f : List Byte) {Q : Unit → State → Prop} (sent : Q () (t.push f)) :
    Ends (emit f) t Q (QuietStop s) := by
  refine Machine.ends_emit f sent ⟨quiet.cfg, quiet.txq, fun none => ?_, ?_, nofun⟩
  · rw [State.dropPush_txFaults, quiet.txFaults, none, List.tail_nil]
  · rintro x ⟨⟩ harm
    exact harm.elim

/-- What follows the emission of a listed frame leaves TXQ as it is. -/
theorem Quiet.sent (quiet : Quiet s t) {f : List Byte} (listed : Listed s.cfg f) (txq : u.txq = (t.push f).txq) :
    Sent s .proceed u :=
  ⟨nofun, .inr ⟨rfl, f, by rw [txq, State.push_txq, quiet.txq], listed⟩⟩

/-! ### The read-back emitter (43_session_driver.md R240, R241) -/

@[simp] theorem glitched_length (bytes mask : List Byte) : (glitched bytes mask).length = bytes.length := by
  induction bytes generalizing mask with
  | nil => cases mask <;> rfl
  | cons b bytes ih =>
    cases mask with
    | nil => rfl
    | cons m mask => rw [glitched, List.length_cons, ih, List.length_cons]

/-- A read returns as many bytes as it was asked for (20_memory.md R64). -/
theorem length_of_memRead {h : HandleId} {off n : Nat} {p : List Byte} (read : memRead h off n s = .ok (some p) t) :
    p.length = n := by
  rw [run_memRead] at read
  split at read
  · cases read
  · split at read
    · split at read
      · split at read
        case h_1 =>
          cases read
          rw [State.readThrough, glitched_length, Memory.readBytes_length]
        all_goals cases read
      · cases read
    · split at read <;> cases read

theorem Quiet.ends_memRead (quiet : Quiet s t) {h : HandleId} {off n : Nat} {Q : Option (List Byte) → State → Prop}
    (read : ∀ p u, Quiet s u → p.length = n → Q (some p) u) (failed : ∀ u, Quiet s u → Q none u) :
    Ends (memRead h off n) t Q (QuietStop s) := by
  have called := Machine.ends_memRead h t off n
  cases ran : memRead h off n t with
  | error e u => exact (ends_of_error ran).mpr (quiet.stop_broke (called.error ran))
  | ok bytes u =>
    have later := quiet.trans (called.ok ran).1.quiet
    refine (ends_of_ok ran).mpr ?_
    cases bytes with
    | none => exact failed u later
    | some p => exact read p u later (length_of_memRead ran)

/-- A storage call that is only tested for failure. -/
theorem Quiet.ends_call (quiet : Quiet s t) {h : HandleId} {W : Device → Nat → Prop} {x : Act α}
    {R Q : α → State → Prop} (call : Ends x t R (Broke h W t)) (called : ∀ a u, R a u → Called h W t u)
    (done : ∀ a u, Quiet s u → Q a u) : Ends x t Q (QuietStop s) :=
  call.mono (fun a u ran => done a u (quiet.trans (called a u ran).quiet)) fun _ _ broke => quiet.stop_broke broke

theorem Quiet.ends_memInit (quiet : Quiet s t) {Q : Bool → State → Prop} (done : ∀ ok u, Quiet s u → Q ok u) :
    Ends (memInit .tx) t Q (QuietStop s) :=
  quiet.ends_call ((Machine.ends_memInit .tx t).mono (fun _ _ => id) fun _ _ lost => lost.broke)
    (fun _ _ ran => ran.1) done

theorem Quiet.ends_memFlush (quiet : Quiet s t) {Q : Option Word → State → Prop} (done : ∀ n u, Quiet s u → Q n u) :
    Ends (memFlush .tx) t Q (QuietStop s) :=
  quiet.ends_call ((Machine.ends_memFlush .tx t).mono (fun _ _ => id) fun _ _ lost => lost.broke)
    (fun _ _ ran => ran.1) done

/-- A read-back step emits a Data frame, or the terminating command of its category. -/
theorem Quiet.speaks_rbEmit (quiet : Quiet s t) : Ends rbEmit t (Sent s) (QuietStop s) := by
  simp only [rbEmit, ends_bind, ends_get]
  by_cases done : t.tc.expectedSize.toNat ≤ t.rbOff.toNat
  · rw [if_pos done]
    simp only [readbackEnd, ends_bind, ends_get, ends_modify, ends_pure]
    cases held : t.tc.targetId with
    | none =>
      rw [ends_of_error (by rw [run_targetOf, held])]
      exact quiet.stop_fault _
    | some target =>
      rw [ends_of_ok (by rw [run_targetOf, held])]
      exact quiet.ends_emit _ (quiet.sent (quiet.cfg ▸ .terminating target.cat) rfl)
  · rw [if_neg done, ends_bind, ends_require]
    refine ⟨fun _ => ?_, fun _ => quiet.stop_raised id⟩
    refine (ends_bind ..).mpr (quiet.ends_memRead (fun p u quiet size => ?_) fun u quiet => quiet.stop_raised id)
    have short : p.length ≤ 512 := by
      rw [size]
      exact Nat.min_le_left ..
    simp only [ends_bind, ends_modify, ends_pure]
    exact quiet.ends_emit _ (quiet.sent (.data _ short) rfl)

/-! ### The rules of the frames -/

/-- The tests of a request change nothing, and no error of theirs has an effect. -/
theorem speaks_of_requestTarget {name : List Byte} {f : Target → Act StepOutcome}
    (accepted : ∀ target, Ends (f target) s (Sent s) (QuietStop s)) : Speaks (requestTarget name >>= f) s := by
  refine (ends_bind ..).mpr ((ends_requestTarget name s).mono ?_ ?_)
  · rintro target _ ⟨rfl, -⟩
    exact accepted target
  · rintro _ _ ⟨rfl, e, rfl, -⟩
    exact quietStop_raised e _

/-- A storage call of a request that fails raises an error with an effect. -/
theorem Quiet.ends_requestCall {call : Act Bool} {cause : StorageCause} {Q : Unit → State → Prop}
    (h : Ends call t (fun _ u => Quiet s u) (QuietStop s)) (done : ∀ u, Quiet s u → Q () u) :
    Ends (requestCall call cause) t Q (QuietStop s) := by
  refine (ends_bind ..).mpr (h.mono (fun ok u quiet => ?_) fun _ _ stop => stop)
  cases ok with
  | true => exact done u quiet
  | false =>
    have closed : Quiet u (u.setHandle .tx (u.handle .tx).close) := .of_registers rfl rfl rfl rfl
    exact (quiet.trans closed).stop_raised (e := .storage cause) id

theorem speaks_readRequestRule (length : Word) (name : List Byte) (s : State) :
    Speaks (readRequestRule length name) s := by
  refine speaks_of_requestTarget fun target => ?_
  simp only [ends_bind, ends_get, ends_memBind, ends_modify]
  have bound (x : Handle) : Quiet s (s.setHandle .tx x) := .of_registers rfl rfl rfl rfl
  refine Quiet.ends_requestCall ((bound _).ends_memInit fun _ _ quiet => quiet) fun u quiet => ?_
  refine Quiet.speaks_rbEmit ?_
  exact quiet.trans (.of_registers rfl rfl rfl rfl)

theorem speaks_writeRequestRule (name : List Byte) (s : State) : Speaks (writeRequestRule name) s := by
  refine speaks_of_requestTarget fun target => ?_
  rw [ends_bind, ends_get, ends_bind, ends_memBind, ends_bind]
  have bound (x : Handle) : Quiet s (s.setHandle .tx x) := .of_registers rfl rfl rfl rfl
  have acknowledged {t : State} (quiet : Quiet s t) : Ends (do
      modify fun s =>
        { s with
          tc := { s.tc with inProgress := true, targetId := some target, lastBlock := 0, crcReceived := false }
          dir := .write }
      emit (Frame.bytes (.ack 0))
      pure .proceed : Act StepOutcome) t (Sent s) (QuietStop s) := by
    simp only [ends_bind, ends_modify, ends_pure]
    refine Quiet.ends_emit ?later _ (Quiet.sent ?later (.ack 0) rfl)
    exact quiet.trans (.of_registers rfl rfl rfl rfl)
  refine Quiet.ends_requestCall ((bound _).ends_memInit fun _ _ quiet => quiet) fun u quiet => ?_
  rw [ends_bind]
  refine Quiet.ends_requestCall ((ends_bind ..).mpr (quiet.ends_memFlush fun _ _ quiet => quiet)) fun u quiet => ?_
  by_cases erases : erasesOnOpen s.cfg target.cat = true
  · rw [if_pos erases, ends_bind]
    exact Quiet.ends_requestCall (quiet.ends_call (ends_memErase .tx u) (fun _ _ ran => ran.1) fun _ _ quiet => quiet)
      fun _ quiet => acknowledged quiet
  · rw [if_neg erases]
    exact acknowledged quiet

theorem speaks_dataRule (block : Half) (payload : List Byte) (s : State) : Speaks (dataRule block payload) s := by
  simp only [dataRule, ends_bind, ends_get, ends_require, ends_modify, ends_pure]
  refine ⟨fun _ => ⟨fun _ => ?_, fun _ => quietStop_raised _ s⟩, fun _ => quietStop_raised _ s⟩
  refine (Quiet.refl s).ends_call (ends_memWrite .tx s payload) (fun _ _ ran => ran.1) fun ok t quiet => ?_
  refine ⟨fun _ => ?_, fun _ => quiet.stop_raised id⟩
  refine Quiet.ends_emit ?later _ (Quiet.sent ?later (.ack block) rfl)
  exact quiet.trans (.of_registers rfl rfl rfl rfl)

theorem speaks_ackRule (block : Half) (s : State) : Speaks (ackRule block) s := by
  simp only [ackRule, ends_bind, ends_get, ends_require]
  refine ⟨fun _ => ⟨fun _ => ?_, fun _ => quietStop_raised _ s⟩, fun _ => quietStop_raised _ s⟩
  by_cases read : s.dir = .read
  · rw [if_pos read]
    exact (Quiet.refl s).speaks_rbEmit
  · rw [if_neg read]
    exact .of_quiet (.refl s) nofun

theorem speaks_errorRule (code : Half) (s : State) : Speaks (errorRule code) s := by
  simp only [errorRule, ends_bind, ends_get, ends_require]
  refine ⟨fun _ => ?_, fun _ => quietStop_raised _ s⟩
  by_cases read : s.dir = .read
  · rw [if_pos read]
    exact .of_quiet (.of_registers rfl rfl rfl rfl) nofun
  · rw [if_neg read]
    exact .of_quiet (.refl s) nofun

theorem speaks_terminalRule (code : Half) (s : State) : Speaks (terminalRule code) s :=
  .of_quiet (.of_registers rfl rfl rfl rfl) nofun

theorem speaks_crcCommandRule (received : Word) (s : State) : Speaks (crcCommandRule received) s := by
  simp only [crcCommandRule, ends_bind, ends_get, ends_require]
  refine ⟨fun _ => ?_, fun _ => quietStop_raised _ s⟩
  cases held : s.tc.targetId with
  | none =>
    rw [ends_of_error (by rw [run_targetOf, held])]
    exact (Quiet.refl s).stop_fault _
  | some target =>
    rw [ends_of_ok (by rw [run_targetOf, held])]
    by_cases loaded : s.loaded target.cat = true
    · rw [ends_of_ok (by rw [run_descriptorOf, if_pos loaded])]
      refine (Quiet.refl s).ends_memFlush fun n t quiet => ?_
      cases n with
      | none => exact quiet.stop_raised id
      | some n =>
        refine (ends_bind ..).mpr (quiet.ends_call (ends_regionCrc .tx t _) (fun _ _ ran => ran.1) fun v u quiet => ?_)
        cases v with
        | none => exact quiet.stop_raised id
        | some v =>
          simp only [ends_bind, ends_require, ends_modify, ends_pure]
          refine ⟨fun _ => .of_quiet (quiet.trans ?_) nofun, fun _ => quiet.stop_raised id⟩
          cases target <;> exact .of_registers rfl rfl rfl rfl
    · rw [ends_of_error (by rw [run_descriptorOf, if_neg loaded])]
      exact (Quiet.refl s).stop_fault _

theorem speaks_commandRule (code : Half) (tail : List Byte) (s : State) : Speaks (commandRule code tail) s := by
  cases command : commandOf s.cfg code with
  | none => exact (ends_of_error (run_commandRule_none command)).mpr (quietStop_raised _ s)
  | some k =>
    by_cases crc : k = .crc
    · subst crc
      simp only [Ends, run_commandRule_crc command]
      by_cases long : 4 ≤ tail.length
      · rw [if_pos long]
        exact speaks_crcCommandRule (be32 tail 0) s
      · rw [if_neg long]
        exact quietStop_raised _ s
    · simp only [Ends, run_commandRule_terminal command crc]
      exact speaks_terminalRule code s

theorem speaks_gate_bind {k : Kind} {rule : Act StepOutcome} (h : Speaks rule s) : Speaks (do gate k; rule) s :=
  (ends_bind ..).mpr (ends_gate (fun _ => h) (quietStop_raised _ s))

theorem speaks_proceed (s : State) : Speaks (pure .proceed) s := Sent.of_quiet (.refl s) nofun

theorem speaks_frameRule (f : Frame) (s : State) : Speaks (frameRule f) s := by
  refine speaks_gate_bind ?_
  cases f with
  | rrq length name => exact speaks_readRequestRule length name s
  | wrq name => exact speaks_writeRequestRule name s
  | data block payload => exact speaks_dataRule block payload s
  | ack block => exact speaks_ackRule block s
  | error code => exact speaks_errorRule code s
  | cmd code tail => exact speaks_commandRule code tail s
  | debug => exact speaks_proceed s

theorem speaks_raise (e : Err) (s : State) : Speaks (raise e) s := quietStop_raised e s

/-- A frame with no fields is only reported (60_exceptions.md R303). -/
theorem speaks_malformedRule (e : FrameError) (s : State) : Speaks (malformedRule e) s := by
  cases e with
  | size | sentinel | opcode => exact speaks_raise _ s
  | kindSize k | noName k => exact speaks_gate_bind (speaks_raise _ s)

end Quiet

/-! ### A frame's step (43_session_driver.md R230, R236) -/

/-- What a step from `s` to `t` emits: at most one frame, one of those listed where it goes on or the error reply where
it raises; and what it leaves where it raises in an open session. -/
structure Spoken (s t : State) : Prop where
  frames : t.txq = s.txq ∨ ∃ f, t.txq = s.txq ++ [f] ∧
    (t.outcome = .proceed ∧ Listed s.cfg f ∨
      ∃ e, t.outcome = .error e ∧ s.cfg.errorReply = .always ∧ f = errorFrame s.cfg e.errClass)
  reply : ∀ e, s.sessionOpen = true → t.outcome = .error e → s.txFaults = [] →
    t.txq = s.txq ++ if s.cfg.errorReply = .always then [errorFrame s.cfg e.errClass] else []
  rejected : ∀ e, s.sessionOpen = true → t.outcome = .error e → harmless e →
    t = { s.rejected e with
      txq := t.txq, txFaults := if s.cfg.errorReply = .always then s.txFaults.tail else s.txFaults }

/-- A step that reports no error and emits nothing. -/
theorem Spoken.silent {s t : State} (txq : t.txq = s.txq) (fine : ∀ e, t.outcome ≠ .error e) : Spoken s t where
  frames := .inl txq
  reply := fun e _ raised => absurd raised (fine e)
  rejected := fun e _ raised => absurd raised (fine e)

theorem errorReply_of_always {s : State} (h : s.cfg.errorReply = .always) (e : Err) :
    errorReply e s = if s.nextTxFails = true then s.dropPush else s.push (errorFrame s.cfg e.errClass) := by
  simp only [errorReply, h]

/-- The error reply emits nothing but the error frame, and that with ERROR_REPLY = always alone; it spends one entry
of the tape (43_session_driver.md R236; log 23). -/
theorem errorReply_eq (e : Err) (s : State) : ∃ q, errorReply e s = { s with
      txq := q, txFaults := if s.cfg.errorReply = .always then s.txFaults.tail else s.txFaults } ∧
    (q = s.txq ∨ s.cfg.errorReply = .always ∧ q = s.txq ++ [errorFrame s.cfg e.errClass]) ∧
    (s.txFaults = [] → q = s.txq ++ if s.cfg.errorReply = .always then [errorFrame s.cfg e.errClass] else []) := by
  cases reply : s.cfg.errorReply with
  | none => exact ⟨s.txq, errorReply_of_none reply e, .inl rfl, fun _ => (List.append_nil _).symm⟩
  | always =>
    rw [errorReply_of_always reply]
    by_cases fails : s.nextTxFails = true
    · refine ⟨s.txq, if_pos fails, .inl rfl, fun none => ?_⟩
      simp [State.nextTxFails, none] at fails
    · exact ⟨_, if_neg fails, .inr ⟨rfl, rfl⟩, fun _ => rfl⟩

/-- The end of a step that raised: the effect of the error, then the error reply. -/
theorem spoken_raised {s u : State} {e : Err} (stop : QuietStop s.clearEmptyReads (.raised e) u) :
    Spoken s (finish (.error e) (errorReply e (takeError e u))) := by
  have quiet := takeError_quiet e u
  have cfg : (takeError e u).cfg = s.cfg := quiet.cfg.trans stop.cfg
  have txq : (takeError e u).txq = s.txq := quiet.txq.trans stop.txq
  obtain ⟨q, reply, frames, sent⟩ := errorReply_eq e (takeError e u)
  rw [cfg, txq] at frames sent
  rw [reply]
  refine ⟨?_, ?_, ?_⟩
  · exact frames.imp id fun ⟨always, frame⟩ => ⟨_, frame, .inr ⟨e, rfl, always, rfl⟩⟩
  · rintro _ - ⟨⟩ none
    exact sent (quiet.txFaults.trans (stop.txFaults none))
  · rintro _ - ⟨⟩ harm
    have same : takeError e u = s.clearEmptyReads := by
      rw [← stop.unchanged e rfl harm]
      cases e with
      | framing | state => rfl
      | _ => exact harm.elim
    rw [same]
    rfl

theorem frameStep_spoken {rule : Act StepOutcome} {s t : State} (ends : Speaks rule s.clearEmptyReads)
    (holds : s.powerHolds) (step : frameStep rule s = .next t) : Spoken s t := by
  rcases frameStep_cases step with
    ⟨closed, rfl⟩ | ⟨opened, ⟨v, u, ran, rfl⟩ | ⟨e, u, ran, rfl⟩ | ⟨u, ran, rfl⟩⟩
  · exact
      { frames := .inl rfl
        reply := fun _ opened => absurd (closed.symm.trans opened) nofun
        rejected := fun _ opened => absurd (closed.symm.trans opened) nofun }
  · obtain ⟨fine, sent⟩ := ends.ok ran
    rcases sent with same | ⟨rfl, f, sent, listed⟩
    · exact .silent same fine
    · exact
        { frames := .inr ⟨f, sent, .inl ⟨rfl, listed⟩⟩
          reply := nofun
          rejected := nofun }
  · exact spoken_raised (ends.error ran)
  · exact absurd holds ((ends.error ran).power rfl)

/-- The empty read emits nothing but the reply to its error (43_session_driver.md R232). -/
theorem emptyReadStep_spoken {s t : State} (holds : s.powerHolds) (step : emptyReadStep s = .next t) :
    Spoken s t := by
  by_cases closed : s.sessionOpen = false
  · rw [emptyReadStep, if_pos closed] at step
    obtain rfl := Host.Outcome.next.inj step
    exact
      { frames := .inl rfl
        reply := fun _ opened => absurd (closed.symm.trans opened) nofun
        rejected := fun _ opened => absurd (closed.symm.trans opened) nofun }
  rw [emptyReadStep, if_neg closed] at step
  by_cases first : s.emptyReads = false
  · have ran : emptyReadRule s = .ok .proceed { s with emptyReads := true } := by
      simp only [emptyReadRule, run_bind, run_get, first, if_true]
      rfl
    rw [ran] at step
    obtain rfl := Host.Outcome.next.inj step
    exact .silent rfl nofun
  · have ran : emptyReadRule s = (raise (.transport .emptyRead) : Act StepOutcome) s.clearEmptyReads := by
      simp [emptyReadRule, run_bind, first]
    refine frameStep_spoken (rule := raise (.transport .emptyRead)) (speaks_raise _ _) holds ?_
    rw [frameStep, if_neg closed, ← ran, step]

/-- What every row of a frame emits, the empty read and FRAME_IN among them. -/
theorem exec_spoken {s t : State} {i : Instr} (row : i.isFrame = true ∨ i = .empty ∨ i = .frameIn)
    (holds : s.powerHolds) (step : exec i s = .next t) : Spoken s t := by
  have spoken {k : Kind} {rule : Act StepOutcome} (speaks : Speaks rule s.clearEmptyReads)
      (step : frameStep (do gate k; rule) s = .next t) : Spoken s t :=
    frameStep_spoken (speaks_gate_bind speaks) holds step
  cases i with
  | rrq length name => exact spoken (speaks_readRequestRule length name _) step
  | wrq name => exact spoken (speaks_writeRequestRule name _) step
  | data block payload => exact spoken (speaks_dataRule block payload _) step
  | ack block => exact spoken (speaks_ackRule block _) step
  | error code => exact spoken (speaks_errorRule code _) step
  | cmd code tail => exact spoken (speaks_commandRule code tail _) step
  | cmdCrc value => exact spoken (speaks_crcCommandRule value _) step
  | debug => exact spoken (speaks_proceed _) step
  | cmdBoot | cmdReset | cmdSwap | cmdBootInfo | cmdPowerOn | cmdPowerOff | cmdEnd | cmdSpiEnd | cmdTriggerWatchdog
  | cmdEraseSpi | cmdSetBank0 | cmdSetBank1 => exact spoken (speaks_terminalRule _ _) step
  | empty => exact emptyReadStep_spoken holds step
  | frameIn =>
    by_cases presented : s.framePresented = false
    · rw [execFrameIn_unpresented presented] at step
      cases step
    · replace presented : s.framePresented = true := by simpa using presented
      by_cases empty : s.flen = 0
      · rw [execFrameIn_empty presented empty] at step
        exact emptyReadStep_spoken holds step
      · rw [execFrameIn_frame presented (by omega)] at step
        refine frameStep_spoken ?_ holds step
        unfold frontEnd
        split
        · exact speaks_frameRule _ _
        · exact speaks_malformedRule _ _
  | sessionReset | load | validate | swap | fixCrc | commit | crcRegion | crcBuf | setActive | crcInit | crcUpdate
  | crcFinal => simp [Instr.isFrame] at row

/-- Settles O60: what a step emits, read from the listed frames and the error reply. -/
theorem emittedFrames : Obligations.EmittedFrames := by
  intro s t i row holds step
  obtain ⟨frames, reply, rejected⟩ := exec_spoken row holds step
  refine ⟨frames.imp id ?_, fun e opened raised => ⟨reply e opened raised, fun harm => rejected e opened raised ?_⟩⟩
  · rintro ⟨f, sent, ⟨went_on, listed⟩ | ⟨e, raised, always, rfl⟩⟩
    · refine ⟨f, sent, ?_⟩
      cases listed with
      | ack n => exact .inl ⟨n, rfl, went_on⟩
      | data n short => exact .inr (.inl ⟨n, _, rfl, short, went_on⟩)
      | terminating c =>
        cases c with
        | app => exact .inr (.inr (.inl ⟨List.append_nil _, went_on⟩))
        | aux => exact .inr (.inr (.inr (.inl ⟨List.append_nil _, went_on⟩)))
    · exact ⟨_, sent, .inr (.inr (.inr (.inr ⟨e, raised, always, rfl⟩)))⟩
  · cases e with
    | framing | state => trivial
    | _ => simp [Err.errClass] at harm

end Sys2Proof.Machine
end

section
/-! The CRC unit (spec/40_crc_engine.md): the micro-operations as the shifts of R143, the reflected form and the table
of R146 as linear maps of the accumulator, and the residue of R147 (b) that follows from both. -/

namespace Sys2Proof.Machine

/-! ### The micro-operations (40_crc_engine.md R142 to R145) -/

theorem crcRounds_eq_iterate (cfg : Config) (n : Nat) (acc : Word) :
    crcRounds cfg n acc = (crcRound cfg)^[n] acc := by
  induction n generalizing acc with
  | zero => rfl
  | succ n ih => exact ih _

theorem crcRound_eq_ite (cfg : Config) :
    crcRound cfg = fun a : Word => if a.getLsbD 31 = true then (a <<< 1) ^^^ cfg.crcPoly else a <<< 1 := by
  funext a
  rw [crcRound, BitVec.msb_eq_getLsbD_last]

section MicroOperations
variable {s : State} {acc : Word}

theorem exec_crcInit (s : State) : exec .crcInit s = .next { s with crcAcc := some s.cfg.crcInit } := rfl

theorem exec_crcUpdate (held : s.crcAcc = some acc) (b : Byte) :
    exec (.crcUpdate b) s = .next { s with crcAcc := some (crcUpdate s.cfg acc b) } := by
  show execCrcUpdate b s = _
  rw [execCrcUpdate, held]

theorem exec_crcUpdate_valueless (none_held : s.crcAcc = none) (b : Byte) :
    exec (.crcUpdate b) s = .fault (.valueless .crcAcc) := by
  show execCrcUpdate b s = _
  rw [execCrcUpdate, none_held]

theorem exec_crcFinal (held : s.crcAcc = some acc) :
    exec .crcFinal s = .next (finish (.crc (crcFinal s.cfg acc)) s) := by
  show execCrcFinal s = _
  rw [execCrcFinal, held]

theorem exec_crcFinal_valueless (none_held : s.crcAcc = none) : exec .crcFinal s = .fault (.valueless .crcAcc) := by
  show execCrcFinal s = _
  rw [execCrcFinal, none_held]

theorem execAll_cons {i : Instr} {is : List Instr} {t : State} (step : exec i s = .next t) :
    execAll (i :: is) s = execAll is t := by rw [execAll, step]

/-- A run of CRC_UPDATEs folds the bytes into the accumulator. -/
theorem execAll_crcUpdates (held : s.crcAcc = some acc) (bytes : List Byte) (rest : List Instr) :
    execAll (bytes.map .crcUpdate ++ rest) s = execAll rest { s with crcAcc := some (crcFold s.cfg acc bytes) } := by
  induction bytes generalizing s acc with
  | nil =>
    have unchanged : { s with crcAcc := some acc } = s := by rw [← held]
    exact congrArg (execAll rest) unchanged.symm
  | cons b bytes ih => exact (execAll_cons (exec_crcUpdate held b)).trans (ih rfl)

end MicroOperations

/-- Settles O10: the eight rounds are the eight shifts written out. -/
theorem crcInitAndUpdate : Obligations.CrcInitAndUpdate := by
  intro s b acc
  refine ⟨exec_crcInit s, fun held => ?_⟩
  rw [exec_crcUpdate held, crcUpdate, crcRounds_eq_iterate, crcRound_eq_ite, crcInputByte]

/-- Settles O11: CRC_FINAL on a held value, and the two faults where none is held. -/
theorem crcFinalAndNoValue : Obligations.CrcFinalAndNoValue := fun _ b _ =>
  ⟨exec_crcFinal, fun none_held => ⟨exec_crcUpdate_valueless none_held b, exec_crcFinal_valueless none_held⟩⟩

/-- Settles O12: the composition by definition, the ten values by evaluation. -/
theorem crc32Values : Obligations.Crc32Values := ⟨fun _ _ => rfl, by decide +kernel⟩

/-- Settles O13: CRC_INIT holds a value, the updates fold the bytes into it, CRC_FINAL reports the result. -/
theorem microOperationsComputeCrc32 : Obligations.MicroOperationsComputeCrc32 := by
  intro s bytes
  calc execAll (.crcInit :: bytes.map .crcUpdate ++ [.crcFinal]) s
    _ = execAll (bytes.map .crcUpdate ++ [.crcFinal]) { s with crcAcc := some s.cfg.crcInit } :=
      execAll_cons (exec_crcInit s)
    _ = execAll [.crcFinal] { s with crcAcc := some (crcFold s.cfg s.cfg.crcInit bytes) } :=
      execAll_crcUpdates rfl bytes _
    _ = _ := execAll_cons (exec_crcFinal rfl)

/-! ### The reflected form (40_crc_engine.md R146) -/

theorem reverse_xor {w : Nat} (x y : BitVec w) : (x ^^^ y).reverse = x.reverse ^^^ y.reverse := by
  ext i hi
  simp [BitVec.getElem_reverse]

theorem reverse_shiftLeft {w : Nat} (x : BitVec w) (n : Nat) : (x <<< n).reverse = x.reverse >>> n := by
  ext i hi
  simp only [BitVec.getElem_reverse, BitVec.getMsbD_shiftLeft, BitVec.getElem_ushiftRight, BitVec.getLsbD_reverse]
  rw [Nat.add_comm]

/-- A byte reflected into the top of the accumulator is the byte at the bottom of the reflected accumulator. -/
theorem reverse_topByte (b : Byte) : (b.reverse.setWidth 32 <<< 24).reverse = b.setWidth 32 := by
  rw [reverse_shiftLeft]
  ext i hi
  rw [BitVec.getElem_ushiftRight, BitVec.getLsbD_reverse, BitVec.getMsbD_setWidth, BitVec.getMsbD_reverse]
  simp

theorem reflectedRound_reverse (cfg : Config) (acc : Word) :
    reflectedRound cfg acc.reverse = (crcRound cfg acc).reverse := by
  have bit : acc.reverse.getLsbD 0 = acc.msb := BitVec.getLsbD_reverse
  rw [reflectedRound, crcRound, bit]
  split <;> simp [reverse_xor, reverse_shiftLeft]

theorem reflectedRounds_reverse (cfg : Config) (n : Nat) (acc : Word) :
    reflectedRounds cfg n acc.reverse = (crcRounds cfg n acc).reverse := by
  induction n generalizing acc with
  | zero => rfl
  | succ n ih => rw [reflectedRounds, reflectedRound_reverse, ih, crcRounds]

section Reflected
variable {cfg : Config}

theorem reflectedUpdate_reverse (refIn : cfg.crcRefIn = true) (acc : Word) (b : Byte) :
    reflectedUpdate cfg acc.reverse b = (crcUpdate cfg acc b).reverse := by
  rw [reflectedUpdate, crcUpdate, ← reflectedRounds_reverse, reverse_xor, crcInputByte, if_pos refIn, reverse_topByte]

theorem foldl_reflectedUpdate_reverse (refIn : cfg.crcRefIn = true) (bytes : List Byte) (acc : Word) :
    bytes.foldl (reflectedUpdate cfg) acc.reverse = (crcFold cfg acc bytes).reverse := by
  induction bytes generalizing acc with
  | nil => rfl
  | cons b bytes ih => rw [List.foldl_cons, reflectedUpdate_reverse refIn, ih]; rfl

theorem crcFinal_reflected (refOut : cfg.crcRefOut = true) (acc : Word) :
    crcFinal cfg acc = acc.reverse ^^^ cfg.crcXorOut := by rw [crcFinal, if_pos refOut]

theorem reflectedCrc32_eq_crc32 (refIn : cfg.crcRefIn = true) (refOut : cfg.crcRefOut = true) (bytes : List Byte) :
    reflectedCrc32 cfg bytes = crc32 cfg bytes := by
  rw [reflectedCrc32, foldl_reflectedUpdate_reverse refIn, crc32, crcFinal_reflected refOut]

end Reflected

/-! ### The shifts are linear -/

/-- A shift adds the polynomial where the bit that leaves is set. -/
theorem reflectedRound_eq_xor (cfg : Config) (x : Word) :
    reflectedRound cfg x = (x >>> 1) ^^^ (if x.getLsbD 0 = true then cfg.crcPoly.reverse else 0#32) := by
  rw [reflectedRound]
  split
  · rfl
  · rw [BitVec.xor_zero]

theorem reflectedRound_xor (cfg : Config) (x y : Word) :
    reflectedRound cfg (x ^^^ y) = reflectedRound cfg x ^^^ reflectedRound cfg y := by
  have added : ∀ p q : Bool, (if (p ^^ q) = true then cfg.crcPoly.reverse else 0#32) =
      (if p = true then cfg.crcPoly.reverse else 0#32) ^^^ (if q = true then cfg.crcPoly.reverse else 0#32) := by
    intro p q
    cases p <;> cases q <;> simp
  simp only [reflectedRound_eq_xor, BitVec.getLsbD_xor, BitVec.ushiftRight_xor_distrib, added]
  ac_rfl

theorem reflectedRounds_xor (cfg : Config) (n : Nat) (x y : Word) :
    reflectedRounds cfg n (x ^^^ y) = reflectedRounds cfg n x ^^^ reflectedRounds cfg n y := by
  induction n generalizing x y with
  | zero => rfl
  | succ n ih => rw [reflectedRounds, reflectedRound_xor, ih]; rfl

theorem reflectedRounds_add (cfg : Config) (m n : Nat) (x : Word) :
    reflectedRounds cfg (m + n) x = reflectedRounds cfg n (reflectedRounds cfg m x) := by
  induction m generalizing x with
  | zero => rw [Nat.zero_add]; rfl
  | succ m ih => rw [Nat.add_right_comm, reflectedRounds, ih, reflectedRounds]

/-- Shifts that meet no set bit add no polynomial. -/
theorem reflectedRounds_of_low_clear (cfg : Config) (n : Nat) {x : Word} (clear : ∀ i < n, x.getLsbD i = false) :
    reflectedRounds cfg n x = x >>> n := by
  induction n generalizing x with
  | zero => simp [reflectedRounds]
  | succ n ih =>
    have shift : reflectedRound cfg x = x >>> 1 := by rw [reflectedRound, clear 0 (by omega), if_neg Bool.false_ne_true]
    rw [reflectedRounds, shift, ih fun i hi => ?_, ← BitVec.shiftRight_add, Nat.add_comm]
    rw [BitVec.getLsbD_ushiftRight]
    exact clear _ (by omega)

/-- Eight shifts act on the low byte alone; the others move down. -/
theorem reflectedRounds_eight (cfg : Config) (x : Word) :
    reflectedRounds cfg 8 x = (x >>> 8) ^^^ reflectedRounds cfg 8 ((x.setWidth 8).setWidth 32) := by
  set low : Word := (x.setWidth 8).setWidth 32 with hlow
  have clear : ∀ i < 8, (x ^^^ low).getLsbD i = false := fun i hi => by
    simp [hlow, hi, show i < 32 by omega]
  have gone : low >>> 8 = 0#32 := by
    ext i hi
    simp [hlow]
  calc reflectedRounds cfg 8 x
    _ = reflectedRounds cfg 8 ((x ^^^ low) ^^^ low) := by rw [BitVec.xor_assoc, BitVec.xor_self, BitVec.xor_zero]
    _ = (x ^^^ low) >>> 8 ^^^ reflectedRounds cfg 8 low := by
      rw [reflectedRounds_xor, reflectedRounds_of_low_clear cfg 8 clear]
    _ = (x >>> 8) ^^^ reflectedRounds cfg 8 low := by
      rw [BitVec.ushiftRight_xor_distrib, gone, BitVec.xor_zero]

/-- The table form is the reflected form (R146). -/
theorem tableUpdate_eq_reflectedUpdate (cfg : Config) : tableUpdate cfg = reflectedUpdate cfg := by
  funext a b
  rw [tableUpdate, crcTableEntry, reflectedUpdate, BitVec.setWidth_xor, reflectedRounds_xor, reflectedRounds_xor,
    reflectedRounds_eight cfg a, BitVec.xor_assoc]

theorem tableCrc32_eq_reflectedCrc32 (cfg : Config) (bytes : List Byte) :
    tableCrc32 cfg bytes = reflectedCrc32 cfg bytes := by
  rw [tableCrc32, tableUpdate_eq_reflectedUpdate, reflectedCrc32]

/-- Settles O14: the reflected accumulator is the reversal of the normal one, and the table holds its
shifts. -/
theorem crcFormsAgree : Obligations.CrcFormsAgree := by
  refine ⟨fun cfg refIn refOut => ⟨reflectedUpdate_reverse refIn, crcFinal_reflected refOut, fun bytes => ?_⟩,
    by decide +kernel⟩
  have reflected := reflectedCrc32_eq_crc32 refIn refOut bytes
  exact ⟨reflected, (tableCrc32_eq_reflectedCrc32 cfg bytes).trans reflected⟩

/-! ### The residue (40_crc_engine.md R147 (b)) -/

/-- The bytes of a word, low byte first, enter the accumulator as the word itself. -/
theorem foldl_reflectedUpdate_leBytes (cfg : Config) (n : Nat) (a : Word) {w : Word} (fits : w.toNat < 256 ^ n) :
    (leBytes n w.toNat).foldl (reflectedUpdate cfg) a = reflectedRounds cfg (8 * n) (a ^^^ w) := by
  induction n generalizing a w with
  | zero =>
    have zero : w = 0 := BitVec.eq_of_toNat_eq (by simpa using fits)
    simp [leBytes, reflectedRounds, zero]
  | succ n ih =>
    have rest : w.toNat / 256 = (w >>> 8).toNat := by simp [Nat.shiftRight_eq_div_pow]
    have low : BitVec.ofNat 8 w.toNat = w.setWidth 8 := BitVec.ofNat_toNat ..
    have enters : reflectedUpdate cfg a (w.setWidth 8) ^^^ (w >>> 8) = reflectedRounds cfg 8 (a ^^^ w) := by
      rw [reflectedUpdate, reflectedRounds_xor, reflectedRounds_xor cfg 8 a w, reflectedRounds_eight cfg w,
        BitVec.xor_assoc, BitVec.xor_comm (reflectedRounds ..) (w >>> 8)]
    have fits' : (w >>> 8).toNat < 256 ^ n := by
      rw [← rest]
      rw [Nat.pow_succ] at fits
      omega
    rw [leBytes, List.foldl_cons, rest, ih _ fits', low, enters, Nat.mul_succ, Nat.add_comm, reflectedRounds_add]

theorem crcFold_append (cfg : Config) (acc : Word) (x y : List Byte) :
    crcFold cfg acc (x ++ y) = crcFold cfg (crcFold cfg acc x) y := List.foldl_append

/-- A message followed by its CRC leaves an accumulator that the message does not enter (R147 (b)). -/
theorem crc32_append_crc32 {cfg : Config} (refIn : cfg.crcRefIn = true) (refOut : cfg.crcRefOut = true)
    (m : List Byte) :
    crc32 cfg (m ++ leBytes 4 (crc32 cfg m).toNat) = reflectedRounds cfg 32 cfg.crcXorOut ^^^ cfg.crcXorOut := by
  set acc := crcFold cfg cfg.crcInit m with hacc
  have value : crc32 cfg m = acc.reverse ^^^ cfg.crcXorOut := crcFinal_reflected refOut acc
  have cancels : acc.reverse ^^^ crc32 cfg m = cfg.crcXorOut := by
    rw [value, ← BitVec.xor_assoc, BitVec.xor_self, BitVec.zero_xor]
  rw [crc32, crcFold_append, crcFinal_reflected refOut, ← foldl_reflectedUpdate_reverse refIn,
    foldl_reflectedUpdate_leBytes cfg 4 _ (crc32 cfg m).isLt, ← hacc, cancels]

/-- Settles O15: the streaming law by folding, and the residue as the constant left by XOROUT alone. -/
theorem crcStreamingAndResidue : Obligations.CrcStreamingAndResidue := by
  refine ⟨crcFold_append, fun m => (crc32_append_crc32 rfl rfl m).trans ?_⟩
  decide +kernel

/-! ### The operations of the port (40_crc_engine.md R150, R151) -/

/-- CRC_BUF on a buffer of the size it names draws no free byte (R151). -/
theorem exec_crcBuf (s : State) {size : Word} {buffer : List Byte} (supplied : buffer.length = size.toNat) :
    exec (.crcBuf size buffer) s = .next { s with outcome := .crc (crc32 s.cfg buffer), crcAcc := none } := by
  have run : crcBufRule size buffer s = .ok (.crc (crc32 s.cfg buffer)) s := by
    simp only [crcBufRule, run_bind, run_get, run_set, run_pure, ← supplied, bufferOperand_exact, Nat.sub_self]
    rfl
  exact operationStep_ok run

/-- Settles O16: the buffer is read as it is; R151's example is the fifth value of R145. -/
theorem crcBuf : Obligations.CrcBuf := by
  refine ⟨fun s _ _ supplied => exec_crcBuf s supplied, fun s is_default => ?_⟩
  obtain ⟨-, -, -, -, -, digits, -⟩ := crc32Values
  rw [exec_crcBuf s rfl, is_default, digits]

section CrcRegion
variable {s : State} {c : Cat} {b : Bank} {size : Word}

/-- What reading the CRC of a bank leaves where its area does not exist: MemInit alone was called (20_memory.md R61). -/
def State.bankRefused (s : State) (A : Area) : State :=
  s.spendFate.setHandle .pm { bound := false, area := A, cur := 0 }

/-- The bank bound to SB_PM and tried, its read still to come (40_crc_engine.md R150). -/
def State.bankOpened (s : State) (c : Cat) (b : Bank) : State :=
  (s.setHandle .pm { bound := true, area := bankArea s.cfg c b (s.desc c b), cur := 0 }).spendFate

/-- Where the area of a bank exists, the one read of it decides (R150). -/
theorem run_bankCrc_fits (answers : s.storageAnswers) (fits : (bankArea s.cfg c b (s.desc c b)).fits = true)
    {bytes : Option (List Byte)}
    (read : memRead .pm 0 (sizeOperand (s.desc c b) size).toNat (s.bankOpened c b) =
      .ok bytes (s.bankOpened c b).spendFate.spendGlitch) :
    let t := s.sectorRead (bankArea s.cfg c b (s.desc c b))
    bankCrc c b size s =
      (bytes.map (crc32 s.cfg)).elim (.error (.raised (.storage .read)) t) fun v => .ok v t := by
  have init : memInit .pm (s.setHandle .pm { bound := true, area := bankArea s.cfg c b (s.desc c b), cur := 0 }) =
      .ok true (s.bankOpened c b) := memInit_ok answers.fate rfl fits
  simp only [bankCrc, run_bind, run_get, run_memBind, init, if_true, run_regionCrc, read, run_memClose]
  cases bytes <;> rfl

/-- The CRC of a bank's first bytes, all of them inside its partition. -/
theorem run_bankCrc_inside (answers : s.storageAnswers) (fits : (bankArea s.cfg c b (s.desc c b)).fits = true)
    (inside : (sizeOperand (s.desc c b) size).toNat ≤ (s.desc c b).partitionSize.toNat) :
    bankCrc c b size s = .ok
      (crc32 s.cfg (Memory.readBytes (s.store (s.cfg.dev c)) (s.desc c b).startAddr.toNat
        (sizeOperand (s.desc c b) size).toNat))
      (s.sectorRead (bankArea s.cfg c b (s.desc c b))) :=
  run_bankCrc_fits answers fits (memRead_ok answers.spendFate.fate answers.spendFate.glitch rfl fits
    ((Nat.zero_add _).le.trans inside))

theorem run_bankCrc_past (answers : s.storageAnswers) (fits : (bankArea s.cfg c b (s.desc c b)).fits = true)
    (past : (s.desc c b).partitionSize.toNat < (sizeOperand (s.desc c b) size).toNat) :
    bankCrc c b size s = .error (.raised (.storage .read)) (s.sectorRead (bankArea s.cfg c b (s.desc c b))) :=
  run_bankCrc_fits answers fits (memRead_past answers.spendFate.fate (past.trans_le (Nat.zero_add _).ge))

theorem run_bankCrc_unfit (answers : s.storageAnswers) (unfit : (bankArea s.cfg c b (s.desc c b)).fits = false) :
    bankCrc c b size s = .error (.raised (.storage .read)) (s.bankRefused (bankArea s.cfg c b (s.desc c b))) := by
  have init : memInit .pm (s.setHandle .pm { bound := true, area := bankArea s.cfg c b (s.desc c b), cur := 0 }) =
      .ok false (s.bankOpened c b) := memInit_unfit answers.fate unfit
  simp only [bankCrc, run_bind, run_get, run_memBind, init, Bool.false_eq_true, if_false, run_pure, run_memClose]
  rfl

theorem exec_crcRegion_ok {v : Word} {t : State} (loaded : s.loaded c = true) (run : bankCrc c b size s = .ok v t) :
    exec (.crcRegion c b size) s = .next (finish (.crc v) t) := by
  have admitted : requireLoaded c s = .ok () s := by rw [run_requireLoaded, if_pos loaded]
  exact operationStep_ok ((run_bind_ok admitted).trans (run_bind_ok run))

theorem exec_crcRegion_error {e : Err} {t : State} (loaded : s.loaded c = true)
    (run : bankCrc c b size s = .error (.raised e) t) :
    exec (.crcRegion c b size) s = .next (finish (.error e) t) := by
  have admitted : requireLoaded c s = .ok () s := by rw [run_requireLoaded, if_pos loaded]
  exact operationStep_error ((run_bind_ok admitted).trans (run_bind_error run))

end CrcRegion

/-- Settles O17: the bank read where its area exists and holds the bytes asked for, `Storage(Read)` where not. -/
theorem crcRegion : Obligations.CrcRegion := by
  intro s c b size loaded answers d n v
  set A := bankArea s.cfg c b d
  by_cases fits : d.startAddr.toNat + d.partitionSize.toNat ≤ 2 ^ 32
  · refine ⟨s.storageFates.tail.tail, s.readGlitches.tail, { bound := false, area := A, cur := 0 }, ⟨rfl, rfl⟩,
      ?_⟩
    by_cases inside : n ≤ d.partitionSize.toNat
    · rw [exec_crcRegion_ok loaded (run_bankCrc_inside answers (decide_eq_true fits) inside),
        if_pos ⟨fits, inside⟩]
      rfl
    · rw [exec_crcRegion_error loaded (run_bankCrc_past answers (decide_eq_true fits) (Nat.lt_of_not_le inside)),
        if_neg fun both => inside both.2]
      rfl
  · refine ⟨s.storageFates.tail, s.readGlitches, { bound := false, area := A, cur := 0 }, ⟨rfl, rfl⟩, ?_⟩
    rw [exec_crcRegion_error loaded (run_bankCrc_unfit answers (decide_eq_false fits)), if_neg fun both => fits both.1]
    rfl

end Sys2Proof.Machine
end

section
/-! The frame parser (spec/41_frame_parser.md): what the front end and the direction gate reject, and the steps of the
frames that write no byte of a bank. -/

namespace Sys2Proof.Machine

/-! ### A row behind the direction gate (41_frame_parser.md R164) -/

/-- A rejection without effect leaves the state as it is (60_exceptions.md R303, R307). -/
theorem takeError_harmless {e : Err} (harm : harmless e) (s : State) : takeError e s = s := by
  cases e with
  | framing | state => rfl
  | _ => exact harm.elim

section Gated
variable {k : Kind} {rule : Act StepOutcome} {s u : State}

theorem frameStep_gate_ok {v : StepOutcome} (reaches : s.reaches k) (run : rule s.clearEmptyReads = .ok v u) :
    frameStep (do gate k; rule) s = .next (finish v u) := by
  obtain ⟨opened, passes⟩ := reaches
  exact frameStep_ok opened ((run_gate_bind (s := s.clearEmptyReads) passes rule).trans run)

theorem frameStep_gate_error {e : Err} (reaches : s.reaches k)
    (run : rule s.clearEmptyReads = .error (.raised e) u) (silent : u.cfg.errorReply = .none) :
    frameStep (do gate k; rule) s = .next (finish (.error e) (takeError e u)) := by
  obtain ⟨opened, passes⟩ := reaches
  exact frameStep_error_silent opened ((run_gate_bind (s := s.clearEmptyReads) passes rule).trans run)
    ((takeError_quiet e u).cfg.symm ▸ silent)

theorem frameStep_rejected {e : Err} (opened : s.sessionOpen = true)
    (run : rule s.clearEmptyReads = .error (.raised e) s.clearEmptyReads) (harm : harmless e)
    (silent : s.cfg.errorReply = .none) : frameStep rule s = .next (s.rejected e) := by
  have same : takeError e s.clearEmptyReads = s.clearEmptyReads := takeError_harmless harm _
  rw [frameStep_error_silent opened run (same.symm ▸ silent), same]
  rfl

theorem frameStep_gate_rejected {e : Err} (reaches : s.reaches k)
    (run : rule s.clearEmptyReads = .error (.raised e) s.clearEmptyReads) (harm : harmless e)
    (silent : s.cfg.errorReply = .none) : frameStep (do gate k; rule) s = .next (s.rejected e) := by
  obtain ⟨opened, passes⟩ := reaches
  exact frameStep_rejected opened ((run_gate_bind (s := s.clearEmptyReads) passes rule).trans run) harm silent

theorem frameStep_gate_stops (opened : s.sessionOpen = true) (read : s.dir = .read) (gated : Kind.gated k = true)
    (silent : s.cfg.errorReply = .none) :
    frameStep (do gate k; rule) s = .next (s.rejected (.state .wrongDirection)) := by
  have stopped : gate k s.clearEmptyReads = .error (.raised (.state .wrongDirection)) s.clearEmptyReads := by
    rw [run_gate, if_pos ⟨read, gated⟩]
  exact frameStep_rejected opened (run_bind_error stopped) trivial silent

theorem reaches_of_passing (opened : s.sessionOpen = true) (passing : Kind.gated k = false) : s.reaches k :=
  ⟨opened, fun stopped => absurd (passing.symm.trans stopped.2) nofun⟩

theorem reaches_of_notRead (opened : s.sessionOpen = true) (notRead : s.dir ≠ .read) : s.reaches k :=
  ⟨opened, fun stopped => notRead stopped.1⟩

end Gated

/-! ### Debug, Error and Ack (41_frame_parser.md R180 to R190) -/

/-- Settles O18: the gate lets a Debug frame pass and its rule does nothing. -/
theorem debugFrame : Obligations.DebugFrame := fun _ opened => exec_debug_of_open opened

section ErrorRule
variable {s : State} {code : Half}

theorem run_errorRule_outOfRange (outside : code < s.cfg.errMin ∨ s.cfg.errMax < code) :
    errorRule code s = .error (.raised (.framing .errorCode)) s := by
  simp only [errorRule, run_bind, run_get, run_require_not (not_not.mpr outside)]

theorem run_errorRule_reading (inRange : ¬ (code < s.cfg.errMin ∨ s.cfg.errMax < code)) (read : s.dir = .read) :
    errorRule code s = .ok (.peerError code) (contextReset s) := by
  simp only [errorRule, run_bind, run_get, run_require_of inRange, if_pos read, run_modify, run_pure]

end ErrorRule

/-- The end of a step that resets the context of an open session (10_state.md R26). -/
theorem finish_contextReset {s : State} (opened : s.sessionOpen = true) (v : StepOutcome) :
    finish v (contextReset s.clearEmptyReads) =
      { s.ended with sessionOpen := true, emptyReads := false, outcome := v, crcAcc := none } := by
  rw [← opened]
  rfl

/-- Settles O21: the range of the code first, then the direction (`errorFrame` is the block's own reply). -/
theorem peerErrorFrame : Obligations.ErrorFrame := by
  intro s code opened
  have reaches : s.reaches .error := reaches_of_passing opened rfl
  split
  case isTrue outside =>
    exact frameStep_gate_rejected reaches (run_errorRule_outOfRange (s := s.clearEmptyReads) outside) trivial
  case isFalse inRange =>
    split
    case isTrue read =>
      rw [← finish_contextReset opened]
      exact frameStep_gate_ok reaches (run_errorRule_reading (s := s.clearEmptyReads) inRange read)
    case isFalse notRead => exact exec_error_of_not_read opened inRange notRead

section AckRule
variable {s : State} {block : Half}

theorem run_ackRule_idle (idle : s.tc.inProgress = false) :
    ackRule block s = .error (.raised (.state .notInProgress)) s := by
  simp [ackRule, run_bind, idle]

theorem run_ackRule_mismatch (busy : s.tc.inProgress = true) (mismatch : block ≠ s.tc.lastBlock) :
    ackRule block s = .error (.raised (.sequence .ackMismatch)) s := by
  simp only [ackRule, run_bind, run_get, run_require_of busy, run_require_not mismatch]

/-- A matching Ack sends the next block in the read direction and has no effect outside it (41_frame_parser.md
R180). -/
theorem run_ackRule_match (busy : s.tc.inProgress = true) (same : block = s.tc.lastBlock) :
    ackRule block s = if s.dir = .read then rbEmit s else .ok .proceed s := by
  simp only [ackRule, run_bind, run_get, run_require_of busy, run_require_of same]
  split <;> rfl

end AckRule

/-- Settles O22: the two tests of the Ack rule, then its direction. -/
theorem ackFrame : Obligations.AckFrame := by
  intro s block opened silent
  have reaches : s.reaches .ack := reaches_of_passing opened rfl
  split
  case isTrue idle => exact frameStep_gate_rejected reaches (run_ackRule_idle idle) trivial silent
  case isFalse inProgress =>
    have busy : s.tc.inProgress = true := by simpa using inProgress
    split
    case isTrue mismatch =>
      exact frameStep_gate_error reaches (run_ackRule_mismatch (s := s.clearEmptyReads) busy mismatch) silent
    case isFalse same =>
      intro notRead
      have run := run_ackRule_match (s := s.clearEmptyReads) busy (not_not.mp same)
      exact frameStep_gate_ok reaches (run.trans (if_neg notRead))

/-! ### The direction gate (41_frame_parser.md R164) -/

theorem exec_terminal {p : Instr × Cmd} (row : p ∈ Instr.terminal) (s : State) : exec p.1 s = terminalStep p.2 s := by
  simp only [Instr.terminal, List.mem_cons, List.not_mem_nil, or_false] at row
  rcases row with rfl | rfl | rfl | rfl | rfl | rfl | rfl | rfl | rfl | rfl | rfl | rfl <;> rfl

/-- An action stops with an error of `P`, where it stops with an error. -/
def RaisesOnly (P : Err → Prop) (stop : Stop) (_ : State) : Prop := ∀ e, stop = .raised e → P e

section RaisesOnly
variable {P : Err → Prop} {s : State}

theorem raisesOnly_raised {e : Err} (holds : P e) : RaisesOnly P (.raised e) s := by
  rintro _ ⟨⟩
  exact holds

theorem raisesOnly_broke {h : HandleId} {W : Device → Nat → Prop} {t : State} {stop : Stop}
    (broke : Broke h W s stop t) : RaisesOnly P stop t := by
  rintro e rfl
  exact broke.elim

end RaisesOnly

/-- The errors an Ack can raise: those of its two tests and those of the read-back emitter (41_frame_parser.md R180, R181;
43_session_driver.md R240, R241). -/
inductive AckError : Err → Prop where
  | notInProgress : AckError (.state .notInProgress)
  | mismatch : AckError (.sequence .ackMismatch)
  | overflow : AckError (.sequence .blockOverflow)
  | read : AckError (.storage .read)
  | write : AckError (.transport .write)

theorem ends_rbEmit (s : State) : Ends rbEmit s (fun v _ => ∀ e, v ≠ .error e) (RaisesOnly AckError) := by
  have sent {f : List Byte} {t : State} {Q : Unit → State → Prop} (done : Q () (t.push f)) :
      Ends (emit f) t Q (RaisesOnly AckError) := ends_emit f done (raisesOnly_raised .write)
  simp only [rbEmit, ends_bind, ends_get]
  by_cases done : s.tc.expectedSize.toNat ≤ s.rbOff.toNat
  · rw [if_pos done]
    simp only [readbackEnd, ends_bind, ends_get, ends_modify, ends_pure]
    cases held : s.tc.targetId with
    | none =>
      rw [ends_of_error (by rw [run_targetOf, held])]
      nofun
    | some target =>
      rw [ends_of_ok (by rw [run_targetOf, held])]
      exact sent nofun
  · rw [if_neg done, ends_bind, ends_require]
    refine ⟨fun _ => ?_, fun _ => raisesOnly_raised .overflow⟩
    refine (ends_bind ..).mpr ((ends_memRead .tx s _ _).mono (fun bytes t _ => ?_) fun _ _ => raisesOnly_broke)
    cases bytes with
    | none => exact raisesOnly_raised (s := t) .read
    | some p =>
      simp only [ends_bind, ends_modify, ends_pure]
      exact sent nofun

theorem ends_ackRule (block : Half) (s : State) :
    Ends (ackRule block) s (fun v _ => ∀ e, v ≠ .error e) (RaisesOnly AckError) := by
  simp only [ackRule, ends_bind, ends_get, ends_require]
  refine ⟨fun _ => ⟨fun _ => ?_, fun _ => raisesOnly_raised .mismatch⟩, fun _ => raisesOnly_raised .notInProgress⟩
  split
  · exact ends_rbEmit s
  · exact nofun

theorem ends_errorRule (code : Half) (s : State) :
    Ends (errorRule code) s (fun v _ => ∀ e, v ≠ .error e) (RaisesOnly (· = .framing .errorCode)) := by
  simp only [errorRule, ends_bind, ends_get, ends_require]
  refine ⟨fun _ => ?_, fun _ => raisesOnly_raised rfl⟩
  split <;> exact nofun

/-- A step behind an open gate reports the errors its rule raises and no other. -/
theorem frameStep_gate_outcome {P : Err → Prop} {k : Kind} {rule : Act StepOutcome} {s t : State} {e : Err}
    (reaches : s.reaches k)
    (ends : Ends rule s.clearEmptyReads (fun v _ => ∀ e, v ≠ .error e) (RaisesOnly P))
    (step : frameStep (do gate k; rule) s = .next t) (reported : t.outcome = .error e) : P e := by
  obtain ⟨opened, passes⟩ := reaches
  have passing := run_gate_bind (s := s.clearEmptyReads) passes rule
  rcases frameStep_cases step with
    ⟨closed, -⟩ | ⟨-, ⟨v, u, ran, rfl⟩ | ⟨x, u, ran, rfl⟩ | ⟨u, -, rfl⟩⟩
  · exact absurd (closed.symm.trans opened) nofun
  · exact absurd reported (ends.ok (passing.symm.trans ran) e)
  · exact ends.error (passing.symm.trans ran) e (congrArg Stop.raised (StepOutcome.error.inj reported))
  · cases reported

/-- Settles O23: the gate stands before every rule of a gated row, and no rule of the other three raises its error. -/
theorem directionGate : Obligations.DirectionGate := by
  intro s opened silent
  refine ⟨fun read i row => ?_, fun i t row step reported => ?_⟩
  · have stops {k : Kind} {rule : Act StepOutcome} (gated : Kind.gated k = true) :=
      frameStep_gate_stops (rule := rule) opened read gated silent
    rcases row with ⟨_, _, rfl⟩ | ⟨_, rfl⟩ | ⟨_, _, rfl⟩ | ⟨_, _, rfl⟩ | ⟨_, rfl⟩ | ⟨p, row, rfl⟩
    · exact stops (k := .readRequest) rfl
    · exact stops (k := .writeRequest) rfl
    · exact stops (k := .data) rfl
    · exact stops (k := .command) rfl
    · exact stops (k := .command) rfl
    · rw [exec_terminal row]
      exact stops (k := .command) rfl
  · have reaches {k : Kind} (passing : Kind.gated k = false) : s.reaches k := reaches_of_passing opened passing
    rcases row with ⟨block, rfl⟩ | ⟨code, rfl⟩ | rfl
    · cases frameStep_gate_outcome (reaches rfl) (ends_ackRule block _) step reported
    · cases frameStep_gate_outcome (reaches rfl) (ends_errorRule code _) step reported
    · rw [exec_debug_of_open opened] at step
      obtain rfl := Host.Outcome.next.inj step
      cases reported

/-! ### The tests of a request (41_frame_parser.md R165, R170, R171 (a)) -/

/-- A request's row is the gate, then the tests of the request (60_exceptions.md R302). -/
theorem exec_request {i : Instr} {name : List Byte} (row : i = .wrq name ∨ ∃ length, i = .rrq length name)
    (s : State) : ∃ k f, Kind.gated k = true ∧ exec i s = frameStep (do gate k; requestTarget name >>= f) s := by
  rcases row with rfl | ⟨length, rfl⟩
  · exact ⟨.writeRequest, _, rfl, rfl⟩
  · exact ⟨.readRequest, _, rfl, rfl⟩

section RequestTarget
variable {s : State} {name : List Byte} {t : Target}

theorem run_requestTarget_unknown (unknown : targetNamed s.cfg name = none) :
    requestTarget name s = .error (.raised (.framing .unknownTarget)) s := by
  rw [run_requestTarget, unknown]

theorem run_requestTarget_busy (known : targetNamed s.cfg name = some t) (busy : s.tc.inProgress = true) :
    requestTarget name s = .error (.raised (.state .busy)) s := by
  simp [run_requestTarget, known, busy]

theorem run_requestTarget_unloaded (known : targetNamed s.cfg name = some t) (idle : s.tc.inProgress = false)
    (unloaded : s.loaded t.cat = false) : requestTarget name s = .error (.raised (.state .notLoaded)) s := by
  simp [run_requestTarget, known, idle, unloaded]

end RequestTarget

/-- Settles O27: the direction gate, then the three tests of a request in their order. -/
theorem requestRejections : Obligations.RequestRejections := by
  intro s i name row opened silent
  obtain ⟨k, f, gated, step⟩ := exec_request row s
  rw [step]
  split
  case isTrue read => exact frameStep_gate_stops opened read gated silent
  case isFalse notRead =>
    have rejected {e : Err} (harm : harmless e)
        (test : requestTarget name s.clearEmptyReads = .error (.raised e) s.clearEmptyReads) :=
      frameStep_gate_rejected (k := k) (reaches_of_notRead opened notRead) (run_bind_error (f := f) test) harm silent
    split
    case h_1 unknown => exact rejected trivial (run_requestTarget_unknown unknown)
    case h_2 known =>
      split
      case isTrue busy => exact rejected trivial (run_requestTarget_busy known busy)
      case isFalse idle =>
        exact fun unloaded => rejected trivial (run_requestTarget_unloaded known (by simpa using idle) unloaded)

/-! ### The Data frames that are refused (41_frame_parser.md R176) -/

section DataRule
variable {s : State} {block : Half} {payload : List Byte}

theorem run_dataRule_idle (idle : s.tc.inProgress = false) :
    dataRule block payload s = .error (.raised (.state .notInProgress)) s := by
  simp [dataRule, run_bind, idle]

theorem run_dataRule_mismatch (busy : s.tc.inProgress = true)
    (mismatch : block.toNat ≠ s.tc.lastBlock.toNat + 1) :
    dataRule block payload s = .error (.raised (.sequence .blockMismatch)) s := by
  simp only [dataRule, run_bind, run_get, run_require_of busy, run_require_not mismatch]

/-- A write that would pass the end of its area fails and writes nothing (20_memory.md R65). -/
theorem memWrite_past {h : HandleId} {bytes : List Byte} (completes : s.fate = .completes)
    (past : (s.handle h).area.size.toNat < (s.handle h).cur.toNat + bytes.length) :
    memWrite h bytes s = .ok false s.spendFate := by
  rw [run_memWrite, completes, if_neg (by simp), if_neg (by omega)]

theorem run_dataRule_past (busy : s.tc.inProgress = true) (inOrder : block.toNat = s.tc.lastBlock.toNat + 1)
    (answers : s.storageAnswers) (past : s.sbTx.area.size.toNat < s.sbTx.cur.toNat + payload.length) :
    dataRule block payload s = .error (.raised (.storage .write)) s.spendFate := by
  have write : memWrite .tx payload s = .ok false s.spendFate := memWrite_past answers.fate past
  simp [dataRule, run_bind, busy, inOrder, write]

end DataRule

/-- Settles O31: the tests of the Data rule in their order, the last one MemWrite's own. -/
theorem dataRejected : Obligations.DataRejected := by
  intro s block payload reaches silent
  split
  case isTrue idle => exact frameStep_gate_rejected reaches (run_dataRule_idle idle) trivial silent
  case isFalse inProgress =>
    have busy : s.tc.inProgress = true := by simpa using inProgress
    split
    case isTrue mismatch =>
      exact frameStep_gate_error reaches (run_dataRule_mismatch (s := s.clearEmptyReads) busy mismatch) silent
    case isFalse inOrder =>
      intro answers past
      exact ⟨s.storageFates.tail, frameStep_gate_error reaches
        (run_dataRule_past (s := s.clearEmptyReads) busy (not_not.mp inOrder) answers past) silent⟩

end Sys2Proof.Machine
end

section
/-! The front end of the frame parser (spec/41_frame_parser.md R160 to R164; spec/60_exceptions.md R302): its tests in
their order, each a rejection without effect. -/

namespace Sys2Proof.Machine

/-! ### Opcodes and the tests of a kind (30_encoding.md R101, R110; 41_frame_parser.md R163) -/

theorem kindOf_eq_none_iff (op : Byte) : kindOf op = none ↔ op = 0 ∨ 7 < op := by
  revert op
  decide

theorem opcodeOf_of_kindOf {op : Byte} {k : Kind} (h : kindOf op = some k) : op = opcodeOf k := by
  have all : ∀ op, (kindOf op).all fun k => op == opcodeOf k := by decide
  simpa [h] using all op

theorem gated_iff_opcodeOf (k : Kind) : Kind.gated k = true ↔ opcodeOf k ∈ ([1, 2, 3, 6] : List Byte) := by
  cases k <;> decide

/-- A frame of at most 516 bytes that is out of the bounds of its kind, written out kind by kind (R110). -/
theorem outOfBounds_iff {k : Kind} {len : Nat} (sized : ¬ (len < 2 ∨ maxFrame < len)) :
    (len < (kindBounds k).1 ∨ (kindBounds k).2 < len) ↔
      (opcodeOf k = 1 ∧ len < 7) ∨ (opcodeOf k = 2 ∧ len < 3) ∨ (opcodeOf k = 3 ∧ len < 4) ∨
      (opcodeOf k = 4 ∧ len ≠ 4) ∨ (opcodeOf k = 5 ∧ (len < 4 ∨ 128 < len)) ∨ (opcodeOf k = 6 ∧ len < 4) := by
  rw [maxFrame] at sized
  cases k <;> simp [opcodeOf, kindBounds, dataHeader, ackLen, errorMaxFrame, maxFrame] <;> omega

section Decode
variable {B : List Byte} {len : Nat} {k : Kind}

theorem decodeFrame_size (bad : len < 2 ∨ maxFrame < len) : decodeFrame B len = .error .size := by
  rw [decodeFrame, if_pos bad]

theorem decodeFrame_sentinel (sized : ¬ (len < 2 ∨ maxFrame < len)) (bad : byteAt B 0 ≠ sentinelByte) :
    decodeFrame B len = .error .sentinel := by
  rw [decodeFrame, if_neg sized, if_pos bad]

theorem decodeFrame_opcode (sized : ¬ (len < 2 ∨ maxFrame < len)) (sentinel : byteAt B 0 = sentinelByte)
    (bad : kindOf (byteAt B 1) = none) : decodeFrame B len = .error .opcode := by
  rw [decodeFrame, if_neg sized, if_neg (not_not.mpr sentinel), bad]

theorem decodeFrame_kind (sized : ¬ (len < 2 ∨ maxFrame < len)) (sentinel : byteAt B 0 = sentinelByte)
    (opcode : kindOf (byteAt B 1) = some k) : decodeFrame B len =
      if len < (kindBounds k).1 ∨ (kindBounds k).2 < len then .error (.kindSize k) else decodeFields k B len := by
  rw [decodeFrame, if_neg sized, if_neg (not_not.mpr sentinel), opcode]

theorem decodeFields_rrq_noName (unterminated : cstr B 6 nameBudget len = none) :
    decodeFields .readRequest B len = .error (.noName .readRequest) := by
  rw [decodeFields, unterminated]

theorem decodeFields_wrq_noName (unterminated : cstr B 2 nameBudget len = none) :
    decodeFields .writeRequest B len = .error (.noName .writeRequest) := by
  rw [decodeFields, unterminated]

/-- The fields of a kind make a frame of that kind, or have no name. -/
theorem decodeFields_cases (k : Kind) (B : List Byte) (len : Nat) :
    (∃ f, decodeFields k B len = .ok f ∧ f.kind = k) ∨ decodeFields k B len = .error (.noName k) := by
  cases k with
  | readRequest =>
    cases name : cstr B 6 nameBudget len with
    | none => exact .inr (decodeFields_rrq_noName name)
    | some name' => exact .inl ⟨_, decodeFields_rrq rfl name, rfl⟩
  | writeRequest =>
    cases name : cstr B 2 nameBudget len with
    | none => exact .inr (decodeFields_wrq_noName name)
    | some name' => exact .inl ⟨_, decodeFields_wrq name, rfl⟩
  | _ => exact .inl ⟨_, rfl, rfl⟩

end Decode

/-! ### The front end (41_frame_parser.md R160) -/

section FrontEnd
variable {s : State} {k : Kind}

theorem frontEnd_malformed {e : FrameError} (h : decodeFrame s.fb s.flen = .error e) :
    frontEnd s = malformedRule e := by
  rw [frontEnd, h]

/-- Once the kind is selected the direction gate comes first, whatever the rest of the frame holds (R164;
60_exceptions.md R302). -/
theorem frontEnd_eq_gate_bind (sized : ¬ (s.flen < 2 ∨ maxFrame < s.flen))
    (sentinel : byteAt s.fb 0 = sentinelByte) (opcode : kindOf (byteAt s.fb 1) = some k) :
    ∃ rule, frontEnd s = (do gate k; rule) := by
  have decoded := decodeFrame_kind sized sentinel opcode
  split at decoded
  · exact ⟨_, frontEnd_malformed decoded⟩
  · rcases decodeFields_cases k s.fb s.flen with ⟨f, fields, rfl⟩ | fields
    · rw [frontEnd, decoded, fields]
      exact ⟨_, rfl⟩
    · exact ⟨_, frontEnd_malformed (decoded.trans fields)⟩

theorem exec_frameIn_malformed {e : FrameError} {x : Err} (presented : s.framePresented = true) (pos : 0 < s.flen)
    (opened : s.sessionOpen = true) (silent : s.cfg.errorReply = .none) (decoded : decodeFrame s.fb s.flen = .error e)
    (run : malformedRule e s.clearEmptyReads = .error (.raised x) s.clearEmptyReads) (harm : harmless x) :
    exec .frameIn s = .next (s.rejected x) := by
  rw [execFrameIn_frame presented pos, frontEnd_malformed decoded]
  exact frameStep_rejected opened run harm silent

theorem run_malformedRule_kindSize (passes : ¬ (s.dir = .read ∧ Kind.gated k = true)) :
    malformedRule (.kindSize k) s = .error (.raised (.framing .size)) s :=
  run_gate_bind passes (raise (.framing .size))

theorem run_malformedRule_noName (passes : ¬ (s.dir = .read ∧ Kind.gated k = true)) :
    malformedRule (.noName k) s = .error (.raised (.framing .name)) s :=
  run_gate_bind passes (raise (.framing .name))

end FrontEnd

/-- Settles O9: each test of R302 where the ones before it pass; the gate stands before the tests of the kind. -/
theorem frontEndOrder : Obligations.FrontEndOrder := by
  intro s presented opened pos silent
  have malformed {e : FrameError} {x : Err} := exec_frameIn_malformed (e := e) (x := x) presented pos opened silent
  split
  case isTrue bad => exact malformed (decodeFrame_size (by rw [maxFrame]; omega)) rfl trivial
  case isFalse sized =>
  replace sized : ¬ (s.flen < 2 ∨ maxFrame < s.flen) := by rw [maxFrame]; omega
  split
  case isTrue bad => exact malformed (decodeFrame_sentinel sized bad) rfl trivial
  case isFalse sentinel =>
  replace sentinel : byteAt s.fb 0 = sentinelByte := not_not.mp sentinel
  split
  case isTrue bad =>
    exact malformed (decodeFrame_opcode sized sentinel ((kindOf_eq_none_iff _).mpr bad)) rfl trivial
  case isFalse known =>
  obtain ⟨k, opcode⟩ := Option.ne_none_iff_exists'.mp (mt (kindOf_eq_none_iff (byteAt s.fb 1)).mp known)
  have byte : s.fb.getD 1 0 = opcodeOf k := opcodeOf_of_kindOf opcode
  simp only [byte, ← gated_iff_opcodeOf, ← outOfBounds_iff sized]
  split
  case isTrue stopped =>
    obtain ⟨rule, front⟩ := frontEnd_eq_gate_bind sized sentinel opcode
    rw [execFrameIn_frame presented pos, front]
    exact frameStep_gate_stops opened stopped.1 stopped.2 silent
  case isFalse passes =>
  have decoded := decodeFrame_kind sized sentinel opcode
  split
  case isTrue bad =>
    exact malformed (decoded.trans (if_pos bad)) (run_malformedRule_kindSize (s := s.clearEmptyReads) passes) trivial
  case isFalse fits =>
  rw [if_neg fits] at decoded
  have noName (fields : decodeFields k s.fb s.flen = .error (.noName k)) :=
    malformed (decoded.trans fields) (run_malformedRule_noName (s := s.clearEmptyReads) passes) trivial
  cases k with
  | readRequest => exact ⟨fun _ unterminated => noName (decodeFields_rrq_noName unterminated), nofun⟩
  | writeRequest => exact ⟨nofun, fun _ unterminated => noName (decodeFields_wrq_noName unterminated)⟩
  | _ => exact ⟨nofun, nofun⟩

end Sys2Proof.Machine
end

section
/-! The read-back emitter where storage answers (spec/43_session_driver.md R240, R241), and the ReadRequest that
starts it (spec/41_frame_parser.md R165, R166). -/

namespace Sys2Proof.Machine

/-! ### The read-back emitter (43_session_driver.md R240, R241) -/

/-- The number of bytes of the next block of a read-back (R240). -/
def State.blockLength (s : State) : Nat := min blockMax (s.tc.expectedSize.toNat - s.rbOff.toNat)

/-- The number of the next block of a read-back (R240). -/
def State.blockNumber (s : State) : Nat := s.rbOff.toNat / blockMax

/-- The bytes of the next block of a read-back, as the transfer device holds them (R240). -/
def State.blockBytes (s : State) : List Byte :=
  Memory.readBytes (s.store s.sbTx.area.dev) (s.sbTx.area.start.toNat + s.rbOff.toNat) s.blockLength

/-- What the emission of the next block leaves (R240): its read, the frame sent, its number kept, the offset
advanced. -/
def State.blockSent (s : State) : State :=
  { s.spendFate.spendGlitch.push (Frame.bytes (.data (BitVec.ofNat 16 s.blockNumber) s.blockBytes)) with
    tc := { s.tc with lastBlock := BitVec.ofNat 16 s.blockNumber }
    rbOff := s.rbOff + BitVec.ofNat 32 s.blockLength }

section RbEmit
variable {s : State}

theorem run_rbEmit_end {t : Target} (done : s.tc.expectedSize.toNat ≤ s.rbOff.toNat)
    (target : s.tc.targetId = some t) (sends : s.nextTxFails = false) :
    rbEmit s = .ok .proceed (contextReset (s.push (terminatingCommand s.cfg t.cat))) := by
  have sent (f : List Byte) : emit f s = .ok () (s.push f) := by simp [sends]
  have held : targetOf s s = .ok t s := by rw [run_targetOf, target]
  calc rbEmit s
    _ = _ := run_bind_ok (run_get s)
    _ = readbackEnd s := congrFun (if_pos done) s
    _ = _ := run_bind_ok (run_get s)
    _ = _ := run_bind_ok held
    _ = _ := run_bind_ok (sent _)

variable (more : s.rbOff.toNat < s.tc.expectedSize.toNat) (counted : s.blockNumber ≤ 0xFFFF)
  (answers : s.storageAnswers)
include more counted answers

/-- A block that would pass the end of the area is not read (20_memory.md R64). -/
theorem run_rbEmit_past (past : s.sbTx.area.size.toNat < s.rbOff.toNat + s.blockLength) :
    rbEmit s = .error (.raised (.storage .read)) s.spendFate.spendGlitch := by
  have read : memRead .tx s.rbOff.toNat s.blockLength s = .ok none s.spendFate.spendGlitch :=
    memRead_past answers.fate past
  calc rbEmit s
    _ = _ := run_bind_ok (run_get s)
    _ = _ := congrFun (if_neg (Nat.not_le.mpr more)) s
    _ = _ := run_bind_ok (run_require_of counted _ s)
    _ = _ := run_bind_ok read

theorem run_rbEmit_block (bound : s.sbTx.bound = true) (fits : s.sbTx.area.fits = true)
    (inside : s.rbOff.toNat + s.blockLength ≤ s.sbTx.area.size.toNat) (sends : s.nextTxFails = false) :
    rbEmit s = .ok .proceed s.blockSent := by
  have read : memRead .tx s.rbOff.toNat s.blockLength s = .ok (some s.blockBytes) s.spendFate.spendGlitch :=
    memRead_ok answers.fate answers.glitch bound fits inside
  have sent (f : List Byte) : emit f s.spendFate.spendGlitch = .ok () (s.spendFate.spendGlitch.push f) := by
    have sends : s.spendFate.spendGlitch.nextTxFails = false := sends
    simp [sends]
  calc rbEmit s
    _ = _ := run_bind_ok (run_get s)
    _ = _ := congrFun (if_neg (Nat.not_le.mpr more)) s
    _ = _ := run_bind_ok (run_require_of counted _ s)
    _ = _ := run_bind_ok read
    _ = _ := run_bind_ok (sent _)

end RbEmit

/-! ### ReadRequest (41_frame_parser.md R165, R166) -/

/-- What an accepted ReadRequest leaves before its first block is sent: the read-back of `length` bytes from `t` open
on the handle `x` (R165). -/
def State.openedRead (s : State) (t : Target) (x : Handle) (length : Word) : State :=
  { s with
    storageFates := s.storageFates.tail
    sbTx := x
    tc := { inProgress := true, targetId := some t, lastBlock := 0, expectedSize := length, crcReceived := false }
    dir := .read
    rbOff := 0 }

section ReadRequest
variable {s : State} {length : Word} {name : List Byte} {t : Target}

/-- A request that binds an area outside the address space ends at MemInit (20_memory.md R61). -/
theorem run_readRequestRule_unfit (request : s.requests name t) (answers : s.storageAnswers)
    (unfit : (requestArea s name t).fits = false) :
    readRequestRule length name s = .error (.raised (.storage .init))
      (s.spendFate.setHandle .tx { s.boundTx name t with bound := false }) := by
  have init : memInit .tx (s.setHandle .tx (s.boundTx name t)) =
      .ok false (s.spendFate.setHandle .tx (s.boundTx name t)) := memInit_unfit answers.fate unfit
  calc readRequestRule length name s
    _ = _ := run_bind_ok (run_requestTarget_ok request)
    _ = _ := run_bind_ok (run_get s)
    _ = _ := run_bind_ok (run_memBind ..)
    _ = _ := run_bind_error (requestCall_refused init _)

theorem run_readRequestRule_opened (request : s.requests name t) (answers : s.storageAnswers)
    (fits : (requestArea s name t).fits = true) :
    readRequestRule length name s = rbEmit (s.openedRead t (s.boundTx name t) length) := by
  have init : memInit .tx (s.setHandle .tx (s.boundTx name t)) =
      .ok true (s.spendFate.setHandle .tx (s.boundTx name t)) := memInit_ok answers.fate rfl fits
  calc readRequestRule length name s
    _ = _ := run_bind_ok (run_requestTarget_ok request)
    _ = _ := run_bind_ok (run_get s)
    _ = _ := run_bind_ok (run_memBind ..)
    _ = _ := run_bind_ok (requestCall_ok init _)
    _ = _ := run_bind_ok (t := s.openedRead t (s.boundTx name t) length) (run_modify ..)

/-- A ReadRequest whose area is bound and tried runs the read-back emitter at once. -/
theorem exec_rrq_ok {v : StepOutcome} {u : State} (reaches : s.reaches .readRequest) (request : s.requests name t)
    (answers : s.storageAnswers) (fits : (requestArea s name t).fits = true)
    (run : rbEmit (s.clearEmptyReads.openedRead t (s.boundTx name t) length) = .ok v u) :
    exec (.rrq length name) s = .next (finish v u) :=
  frameStep_gate_ok reaches
    ((run_readRequestRule_opened (s := s.clearEmptyReads) request answers fits).trans run)

theorem exec_rrq_error {e : Err} {u : State} (reaches : s.reaches .readRequest) (request : s.requests name t)
    (answers : s.storageAnswers) (fits : (requestArea s name t).fits = true)
    (run : rbEmit (s.clearEmptyReads.openedRead t (s.boundTx name t) length) = .error (.raised e) u)
    (silent : u.cfg.errorReply = .none) :
    exec (.rrq length name) s = .next (finish (.error e) (takeError e u)) :=
  frameStep_gate_error reaches
    ((run_readRequestRule_opened (s := s.clearEmptyReads) request answers fits).trans run) silent

end ReadRequest

/-! The first block of a read-back begins at the start of the bank. -/

section OpenedRead
variable (s : State) (t : Target) (x : Handle) (length : Word)

theorem State.rbOff_openedRead : (s.openedRead t x length).rbOff = 0#32 := rfl

theorem State.blockNumber_openedRead : (s.openedRead t x length).blockNumber = 0 := Nat.zero_div blockMax

theorem State.blockLength_openedRead : (s.openedRead t x length).blockLength = min 512 length.toNat := rfl

theorem State.blockBytes_openedRead : (s.openedRead t x length).blockBytes =
    Memory.readBytes (s.store x.area.dev) x.area.start.toNat (min 512 length.toNat) := rfl

theorem State.blockEnd_openedRead : (s.openedRead t x length).rbOff.toNat + (s.openedRead t x length).blockLength =
    min 512 length.toNat := by
  rw [State.rbOff_openedRead, State.blockLength_openedRead]
  exact Nat.zero_add _

/-- The end of a ReadRequest step for no byte: the read-back is over as it begins (43_session_driver.md R241). -/
theorem finish_openedRead_empty (opened : s.sessionOpen = true) (A : Area) (f : List Byte) :
    let u := s.clearEmptyReads.openedRead t { bound := true, area := A, cur := 0 } 0
    finish .proceed (contextReset (u.push f)) =
      { s.ended with
        sessionOpen := true, emptyReads := false, storageFates := s.storageFates.tail
        sbTx := { bound := false, area := A, cur := 0 }
        txFaults := s.txFaults.tail, txq := s.txq ++ [f], outcome := .proceed, crcAcc := none } := by
  cases s
  cases opened
  rfl

/-- The end of a ReadRequest step that sends its first block. -/
theorem finish_openedRead_block :
    finish .proceed (s.clearEmptyReads.openedRead t x length).blockSent = { s with
      emptyReads := false, storageFates := s.storageFates.tail.tail, readGlitches := s.readGlitches.tail
      sbTx := x
      tc := { inProgress := true, targetId := some t, lastBlock := 0, expectedSize := length, crcReceived := false }
      dir := .read
      rbOff := BitVec.ofNat 32 (min 512 length.toNat)
      txFaults := s.txFaults.tail
      txq := s.txq ++ [[0, 3, 0, 0] ++
        Memory.readBytes (s.store x.area.dev) x.area.start.toNat (min 512 length.toNat)]
      outcome := .proceed, crcAcc := none } := by
  rw [State.blockSent, State.blockNumber_openedRead, State.blockLength_openedRead, State.blockBytes_openedRead,
    State.rbOff_openedRead, BitVec.zero_add]
  generalize min 512 length.toNat = n
  rfl

/-- The end of a ReadRequest step whose first block cannot be read (60_exceptions.md R306). -/
theorem finish_openedRead_past (A : Area) :
    let u := (s.clearEmptyReads.openedRead t { bound := true, area := A, cur := 0 } length).spendFate.spendGlitch
    finish (.error (.storage .read)) (takeError (.storage .read) u) = { s.ended with
      emptyReads := false, storageFates := s.storageFates.tail.tail, readGlitches := s.readGlitches.tail
      sbTx := { bound := false, area := A, cur := 0 }
      outcome := .error (.storage .read), crcAcc := none } := by
  intro u
  have flat : u = { s with
      emptyReads := false, storageFates := s.storageFates.tail.tail, readGlitches := s.readGlitches.tail
      sbTx := { bound := true, area := A, cur := 0 }
      tc := { inProgress := true, targetId := some t, lastBlock := 0, expectedSize := length, crcReceived := false }
      dir := .read
      rbOff := 0 } := rfl
  rw [flat]
  rfl

end OpenedRead

theorem terminatingCommand_eq_ite (cfg : Config) (c : Cat) :
    terminatingCommand cfg c =
      [0, 6] ++ encBe16 (if c = .app then cfg.cmdCodes.endTransfer else cfg.cmdCodes.spiEnd) := by
  cases c <;> rfl

/-- Settles O28: the bank is bound and tried, and the first step of the read-back follows at once. -/
theorem readRequest : Obligations.ReadRequest := by
  intro s length name t reaches request answers sends silent d n
  by_cases fits : (requestArea s name t).fits = true
  case neg =>
    have outside : ¬ d.startAddr.toNat + d.partitionSize.toNat ≤ 2 ^ 32 := mt decide_eq_true fits
    have unfit : (requestArea s name t).fits = false := by simpa using fits
    refine ⟨s.storageFates.tail, s.readGlitches, fun inside => absurd inside outside,
      fun inside => absurd inside outside, fun inside => absurd inside outside, fun _ => ?_⟩
    exact frameStep_gate_error reaches
      (run_readRequestRule_unfit (s := s.clearEmptyReads) request answers unfit) silent
  have inside : d.startAddr.toNat + d.partitionSize.toNat ≤ 2 ^ 32 := of_decide_eq_true fits
  by_cases zero : length = 0
  · subst zero
    refine ⟨s.storageFates.tail, s.readGlitches, fun _ _ => ?_, fun _ nonzero => absurd rfl nonzero,
      fun _ past => absurd past (Nat.not_lt_zero _), fun outside => absurd inside (Nat.not_le.mpr outside)⟩
    rw [exec_rrq_ok (length := 0) reaches request answers fits (run_rbEmit_end (Nat.le_refl 0) rfl sends),
      ← terminatingCommand_eq_ite]
    exact congrArg Host.Outcome.next (finish_openedRead_empty s t reaches.1 _ _)
  set u := s.clearEmptyReads.openedRead t (s.boundTx name t) length
  have more : u.rbOff.toNat < u.tc.expectedSize.toNat :=
    Nat.pos_of_ne_zero fun none => zero (BitVec.eq_of_toNat_eq none)
  have counted : u.blockNumber ≤ 0xFFFF := (State.blockNumber_openedRead ..).trans_le (Nat.zero_le _)
  have answering : u.storageAnswers := answers.spendFate
  have blockEnd : u.rbOff.toNat + u.blockLength = n := State.blockEnd_openedRead ..
  refine ⟨s.storageFates.tail.tail, s.readGlitches.tail, fun _ empty => absurd empty zero, fun _ _ room => ?_,
    fun _ past => ?_, fun outside => absurd inside (Nat.not_le.mpr outside)⟩
  · rw [exec_rrq_ok reaches request answers fits
      (run_rbEmit_block more counted answering rfl fits (blockEnd.trans_le room) sends)]
    exact congrArg Host.Outcome.next (finish_openedRead_block ..)
  · rw [exec_rrq_error reaches request answers fits
      (run_rbEmit_past more counted answering (past.trans_eq blockEnd.symm)) silent]
    exact congrArg Host.Outcome.next (finish_openedRead_past ..)

end Sys2Proof.Machine
end

section
/-! The Command frame (spec/42_command_dispatch.md): the twelve terminal commands, the front end that selects a rule,
and the finalising CRC that is accepted. -/

namespace Sys2Proof.Machine

/-! ### The terminal commands (42_command_dispatch.md R201) -/

@[simp] theorem run_terminalRule (code : Half) (s : State) :
    terminalRule code s = .ok (.terminal code) (contextReset s).closeSession := rfl

/-- The end of a step that resets the context and closes the session (10_state.md R26, R29). -/
theorem finish_closeSession (s : State) (v : StepOutcome) :
    finish v (contextReset s.clearEmptyReads).closeSession =
      { s.ended with emptyReads := false, outcome := v, crcAcc := none } := rfl

/-- Settles O19: behind the open gate each of the twelve rows runs the one terminal rule. -/
theorem terminalCommands : Obligations.TerminalCommands := by
  intro s reaches p row
  rw [exec_terminal row, ← finish_closeSession]
  exact frameStep_gate_ok reaches (run_terminalRule ..)

/-! ### The front end (42_command_dispatch.md R200) -/

theorem commandOf_outOfRange {cfg : Config} {code : Half} (outside : code < cfg.cmdMin ∨ cfg.cmdMax < code) :
    commandOf cfg code = none := if_pos outside

/-- The row `CMD` and the row its code and tail select are one step (30_encoding.md R115, R118). -/
theorem exec_cmd_eq_ofCommand (s : State) (code : Half) (tail : List Byte) :
    exec (.cmd code tail) s = exec (Instr.ofCommand s.cfg code tail) s := (exec_ofCommand s code tail).symm

theorem ofCommand_crc_of_length {cfg : Config} (codes : cfg.commandCodesOk) {tail : List Byte}
    (long : 4 ≤ tail.length) : Instr.ofCommand cfg cfg.cmdCodes.crc tail = .cmdCrc (be32 tail 0) := by
  have found : commandOf cfg cfg.cmdCodes.crc = some .crc := commandOf_of codes .crc
  simp only [Instr.ofCommand, found, if_neg (Nat.not_lt.mpr long)]

/-- A Command frame whose rule rejects it at once (60_exceptions.md R303). -/
theorem exec_cmd_rejected {s : State} {code : Half} {tail : List Byte} {e : Err} (reaches : s.reaches .command)
    (run : commandRule code tail s.clearEmptyReads = .error (.raised e) s.clearEmptyReads) (harm : harmless e)
    (silent : s.cfg.errorReply = .none) : exec (.cmd code tail) s = .next (s.rejected e) :=
  frameStep_gate_rejected reaches run harm silent

/-- Settles O20: the two rejections run the Command rule; an accepted code is the step of the row it selects. -/
theorem commandFrontEnd : Obligations.CommandFrontEnd := by
  intro s code tail reaches codes
  refine ⟨fun outside silent => ?_, ?_, ?_, ?_⟩
  · exact exec_cmd_rejected reaches
      (run_commandRule_none (s := s.clearEmptyReads) (commandOf_outOfRange outside)) trivial silent
  · rintro p row rfl
    rw [exec_cmd_eq_ofCommand, ofCommand_terminal codes row]
    exact terminalCommands s reaches p row
  · rintro rfl short silent
    have run := run_commandRule_crc (s := s.clearEmptyReads) (tail := tail) (commandOf_of codes .crc)
    rw [if_neg (Nat.not_le.mpr short)] at run
    exact exec_cmd_rejected reaches run trivial silent
  · rintro rfl long
    rw [exec_cmd_eq_ofCommand, ofCommand_crc_of_length codes long]

/-! ### The finalising CRC that is accepted (42_command_dispatch.md R205, R206) -/

theorem finalised_eq_ite (cfg : Config) (c : Cat) (d : Descriptor) (v n received : Word) :
    finalised cfg c d v n received =
      if c = .app then { d with crc32 := v }
      else { d with
        crc32 := v, uploadedSize := n, uploadedCrc := received
        contentSize := if cfg.auxSpanIsBytesWritten = true then n else d.contentSize } := by
  cases c <;> rfl

/-- The state a matching finalising CRC leaves: two storage calls are spent, the descriptor is finalised and
TC.crc_received is set. -/
def State.crcAccepted (s : State) (t : Target) (received : Word) : State :=
  (s.spendFate.spendFate.spendGlitch.setDesc t.cat t.bank
    (finalised s.cfg t.cat (s.desc t.cat t.bank) received s.sbTx.cur received)).markCrcReceived

/-- The CRC of the first `n` bytes of a bound area, all of them inside it (42_command_dispatch.md R206). -/
theorem run_regionCrc_inside {h : HandleId} {n : Word} {s : State} (answers : s.storageAnswers)
    (bound : (s.handle h).bound = true) (fits : (s.handle h).area.fits = true)
    (inside : n.toNat ≤ (s.handle h).area.size.toNat) :
    regionCrc h n s = .ok
      (some (crc32 s.cfg (Memory.readBytes (s.store (s.handle h).area.dev) (s.handle h).area.start.toNat n.toNat)))
      s.spendFate.spendGlitch := by
  rw [run_regionCrc, memRead_ok answers.fate answers.glitch bound fits ((Nat.zero_add _).le.trans inside)]
  rfl

theorem run_crcCommandRule_match {s : State} {received : Word} {t : Target} (busy : s.tc.inProgress = true)
    (target : s.tc.targetId = some t) (loaded : s.loaded t.cat = true) (bound : s.sbTx.bound = true)
    (answers : s.storageAnswers) (fits : s.sbTx.area.fits = true)
    (inside : (s.crcSpan t).toNat ≤ s.sbTx.area.size.toNat)
    (value : crc32 s.cfg (Memory.readBytes (s.store s.sbTx.area.dev) s.sbTx.area.start.toNat (s.crcSpan t).toNat) =
      received) :
    crcCommandRule received s = .ok (.writeContext t.cat) (s.crcAccepted t received) := by
  have flush : memFlush .tx s = .ok (some s.sbTx.cur) s.spendFate := memFlush_ok answers.fate bound
  have read : regionCrc .tx (s.crcSpan t) s.spendFate = .ok (some received) s.spendFate.spendFate.spendGlitch :=
    value ▸ run_regionCrc_inside (h := .tx) answers.spendFate bound fits inside
  rw [State.crcSpan] at read
  simp [crcCommandRule, run_bind, busy, target, loaded, flush, read, run_map, State.crcAccepted]

/-- The end of an accepted finalising CRC, register by register: what the calls before it spent and the write of
the descriptor are of different registers. -/
theorem finish_crcAccepted (s : State) (t : Target) (received : Word) (v : StepOutcome) :
    finish v (s.clearEmptyReads.crcAccepted t received) =
      { s.setDesc t.cat t.bank (finalised s.cfg t.cat (s.desc t.cat t.bank) received s.sbTx.cur received) with
        emptyReads := false, storageFates := s.storageFates.tail.tail, readGlitches := s.readGlitches.tail
        tc := { s.tc with crcReceived := true }
        outcome := v, crcAcc := none } := by
  rw [State.crcAccepted]
  cases t.cat <;> rfl

/-- Settles O35: the rule runs to its end on a state whose gate is open. -/
theorem crcCommandMatch : Obligations.CrcCommandMatch := by
  intro s received t reaches busy target loaded bound fits answers d n span inside value
  have crcSpan_eq : s.crcSpan t = span := finSpan_eq_ite ..
  clear_value span
  subst crcSpan_eq
  refine ⟨s.storageFates.tail.tail, s.readGlitches.tail, ?_⟩
  rw [← finalised_eq_ite, ← finish_crcAccepted]
  exact frameStep_gate_ok reaches (run_crcCommandRule_match (s := s.clearEmptyReads) busy target loaded bound answers
    (decide_eq_true fits) inside value)

end Sys2Proof.Machine
end

section
/-! The session driver (spec/43_session_driver.md): SESSION_RESET, the empty read, the read-back that an Ack goes on
with or ends, and the Data frame whose Ack cannot be sent. -/

namespace Sys2Proof.Machine

/-! ### SESSION_RESET and EMPTY (43_session_driver.md R231, R232) -/

/-- Settles O25: SESSION_RESET is the context reset with the session opened afresh. -/
theorem sessionReset : Obligations.SessionReset := fun _ => rfl

section EmptyRead
variable {s : State}

theorem emptyReadStep_closed (closed : s.sessionOpen = false) :
    emptyReadStep s = .next (s.refused (.state .noSession)) := by
  rw [emptyReadStep, if_pos closed]
  rfl

theorem emptyReadStep_open (opened : s.sessionOpen = true) : emptyReadStep s = settleFrame (emptyReadRule s) := by
  rw [emptyReadStep, if_neg (by simp [opened])]

theorem run_emptyReadRule_first (first : s.emptyReads = false) :
    emptyReadRule s = .ok .proceed { s with emptyReads := true } := by
  simp only [emptyReadRule, run_bind, run_get, if_pos first, run_set, run_pure]

theorem run_emptyReadRule_second (second : s.emptyReads = true) :
    emptyReadRule s = .error (.raised (.transport .emptyRead)) s.clearEmptyReads := by
  simp [emptyReadRule, run_bind, second]

end EmptyRead

/-- Settles O26: the session is tested first, then whether the last read was empty too. -/
theorem emptyRead : Obligations.EmptyRead := by
  intro s
  refine ⟨emptyReadStep_closed, fun opened first => ?_, fun opened second silent => ?_⟩
  · calc exec .empty s
      _ = settleFrame (emptyReadRule s) := emptyReadStep_open opened
      _ = _ := by rw [run_emptyReadRule_first first]; rfl
  · calc exec .empty s
      _ = settleFrame (emptyReadRule s) := emptyReadStep_open opened
      _ = .next (finish _ (errorReply _ (takeError _ s.clearEmptyReads))) := by
        rw [run_emptyReadRule_second second]; rfl
      _ = _ := by rw [errorReply_of_none (by exact silent)]; rfl

/-! ### The read-back that an Ack goes on with (43_session_driver.md R240 to R242) -/

/-- A block whose number does not fit its field is not sent (43_session_driver.md R242 (d)). -/
theorem run_rbEmit_overflow {s : State} (more : s.rbOff.toNat < s.tc.expectedSize.toNat)
    (overflow : 0xFFFF < s.blockNumber) : rbEmit s = .error (.raised (.sequence .blockOverflow)) s := by
  calc rbEmit s
    _ = _ := run_bind_ok (run_get s)
    _ = _ := congrFun (if_neg (Nat.not_le.mpr more)) s
    _ = _ := run_bind_error (run_require_not (Nat.not_le.mpr overflow) _ s)

/-- A matching Ack in the read direction is the step of the read-back emitter (41_frame_parser.md R180). -/
theorem exec_ack_eq_rbEmit {s : State} {block : Half} (busy : s.tc.inProgress = true) (read : s.dir = .read)
    (same : block = s.tc.lastBlock) : exec (.ack block) s = frameStep (do gate .ack; rbEmit) s := by
  have run := run_ackRule_match (s := s.clearEmptyReads) busy same
  exact frameStep_congr (gate_bind_congr (run.trans (if_pos read)))

/-- The end of a read-back step that sends a block. -/
theorem finish_blockSent (s : State) (v : StepOutcome) :
    finish v s.clearEmptyReads.blockSent = { s with
      emptyReads := false, storageFates := s.storageFates.tail, readGlitches := s.readGlitches.tail
      tc := { s.tc with lastBlock := BitVec.ofNat 16 s.blockNumber }
      rbOff := s.rbOff + BitVec.ofNat 32 s.blockLength
      txFaults := s.txFaults.tail
      txq := s.txq ++ [[0, 3] ++ encBe16 (BitVec.ofNat 16 s.blockNumber) ++ s.blockBytes]
      outcome := v, crcAcc := none } := rfl

/-- Settles O33: the emitter's own tests in their order, the number, then the area. -/
theorem readBackBlock : Obligations.ReadBackBlock := by
  intro s block opened busy read same more silent n blk
  have reaches : s.reaches .ack := reaches_of_passing opened rfl
  have more : s.clearEmptyReads.rbOff.toNat < s.clearEmptyReads.tc.expectedSize.toNat := more
  rw [exec_ack_eq_rbEmit busy read same]
  split
  case isTrue overflow => exact frameStep_gate_error reaches (run_rbEmit_overflow more overflow) silent
  case isFalse number =>
    intro bound fits answers sends
    have counted : s.blockNumber ≤ 0xFFFF := Nat.le_of_not_lt number
    refine ⟨s.storageFates.tail, s.readGlitches.tail, ?_⟩
    split
    case isTrue inside =>
      have run := run_rbEmit_block more counted answers bound (decide_eq_true fits) inside sends
      exact (frameStep_gate_ok reaches run).trans (congrArg Host.Outcome.next (finish_blockSent ..))
    case isFalse past =>
      exact frameStep_gate_error reaches (run_rbEmit_past more counted answers (Nat.lt_of_not_le past)) silent

/-- The end of a step that sends the last frame of a transfer and resets its context. -/
theorem finish_contextReset_push {s : State} (opened : s.sessionOpen = true) (f : List Byte) (v : StepOutcome) :
    finish v (contextReset (s.clearEmptyReads.push f)) = { s.ended with
      sessionOpen := true, emptyReads := false, txFaults := s.txFaults.tail, txq := s.txq ++ [f]
      outcome := v, crcAcc := none } := by
  rw [← opened]
  rfl

/-- Settles O34: with no byte left the emitter sends the terminating command. -/
theorem readBackEnd : Obligations.ReadBackEnd := by
  intro s block t opened busy read same done target sends
  have run := run_rbEmit_end (s := s.clearEmptyReads) done target sends
  rw [exec_ack_eq_rbEmit busy read same, ← terminatingCommand_eq_ite,
    frameStep_gate_ok (reaches_of_passing opened rfl) run]
  exact congrArg Host.Outcome.next (finish_contextReset_push opened ..)

/-! ### The Data frame whose Ack cannot be sent (60_exceptions.md R308) -/

theorem run_dataRule_unsent {s : State} {block : Half} {payload : List Byte} (busy : s.tc.inProgress = true)
    (inOrder : block.toNat = s.tc.lastBlock.toNat + 1) (bound : s.sbTx.bound = true)
    (fits : s.sbTx.area.fits = true) (room : s.sbTx.cur.toNat + payload.length ≤ s.sbTx.area.size.toNat)
    (answers : s.storageAnswers) (fails : s.nextTxFails = true) :
    let u := (s.spendFate.program s.sbTx.area.dev s.sbTx.cursor payload).setHandle .tx
      { s.sbTx with cur := s.sbTx.cur + BitVec.ofNat 32 payload.length }
    dataRule block payload s =
      .error (.raised (.transport .write)) (State.dropPush { u with tc.lastBlock := block }) := by
  intro u
  have write : memWrite .tx payload s = .ok true u := memWrite_ok answers.fate bound fits room
  have fails : State.nextTxFails { u with tc.lastBlock := block } = true := by
    simpa [State.nextTxFails, u] using fails
  simp only [dataRule, run_bind, run_get, run_require_of busy, run_require_of inOrder, write, run_require_of,
    run_modify, run_emit, fails, if_true]

/-- The context reset after a Data frame whose Ack was not sent: the bytes stay, the number and the cursor do not. -/
theorem finish_dataUnsent {s : State} (bound : s.sbTx.bound = true) (d : Device) (a : Nat) (payload : List Byte)
    (cur : Word) (block : Half) :
    let u := (s.clearEmptyReads.spendFate.program d a payload).setHandle .tx { s.sbTx with cur := cur }
    finish (.error (.transport .write)) (takeError (.transport .write)
        (State.dropPush { u with tc.lastBlock := block })) =
      { (s.program d a payload).ended with
        emptyReads := false, storageFates := s.storageFates.tail, txFaults := s.txFaults.tail
        outcome := .error (.transport .write), crcAcc := none } := by
  intro u
  have before : (s.program d a payload).sbTx.bound = true := by simpa using bound
  have after : (State.dropPush { u with tc.lastBlock := block }).sbTx.bound = true := by simpa [u] using bound
  rw [takeError, contextReset, if_pos after, State.ended, if_pos before]
  cases d <;> rfl

/-- Settles O32: the payload is programmed before the Ack fails, and the context reset follows. -/
theorem unsentAck : Obligations.UnsentAck := by
  intro s block payload reaches busy inOrder bound fits room answers fails silent canonical
  have run := run_dataRule_unsent (s := s.clearEmptyReads) busy inOrder bound (decide_eq_true fits) room answers fails
  refine ⟨s.storageFates.tail, s.freeCtr + payload.length, s.dataWritten payload, ?_,
    s.dataWritten_read canonical payload⟩
  exact (frameStep_gate_error reaches run (by simpa using silent)).trans
    (congrArg Host.Outcome.next (finish_dataUnsent bound ..))

end Sys2Proof.Machine
end

section
/-! The phase of a session (spec/10_state.md R28) across a frame and across an operation: the table of
spec/43_session_driver.md R233, row by row. -/

namespace Sys2Proof.Machine

/-! ### The phase of a state (10_state.md R28) -/

section Phase
variable {s : State}

/-- The phase is a function of SESSION_OPEN and TC. -/
theorem phase_congr {t : State} (session : t.sessionOpen = s.sessionOpen) (tc : t.tc = s.tc) : phase t = phase s := by
  rw [phase, phase, session, tc]

theorem phase_of_closed (closed : s.sessionOpen = false) : phase s = .idle := if_pos closed

variable (opened : s.sessionOpen = true)
include opened

theorem phase_of_idle (idle : s.tc.inProgress = false) : phase s = .awaitingRequest := by
  simp [phase, opened, idle]

theorem phase_of_busy (busy : s.tc.inProgress = true) :
    phase s = if s.tc.crcReceived = true then .finalizing else .transferring := by
  simp [phase, opened, busy]

theorem phase_of_unfinished (busy : s.tc.inProgress = true) (unfinished : s.tc.crcReceived = false) :
    phase s = .transferring := by
  simp [phase_of_busy opened busy, unfinished]

theorem phase_busy_cases (busy : s.tc.inProgress = true) : phase s = .transferring ∨ phase s = .finalizing := by
  rw [phase_of_busy opened busy]
  split <;> simp

theorem phase_markCrcReceived (busy : s.tc.inProgress = true) : phase s.markCrcReceived = .finalizing :=
  phase_of_busy opened busy

theorem phase_ne_idle : phase s ≠ .idle := by
  cases busy : s.tc.inProgress with
  | false => simp [phase_of_idle opened busy]
  | true => rcases phase_busy_cases opened busy with h | h <;> simp [h]

end Phase

/-! ### What a rule that finishes does to the phase -/

/-- The table for a rule that finishes (43_session_driver.md R233): with the direction `d`, the frame of the row `i`
takes the phase `p` to the phase `q` and reports `v`. -/
inductive Moves (d : Dir) (p : Phase) : Phase → Instr → StepOutcome → Prop where
  | wrq {name : List Byte} (before : p = .awaitingRequest) : Moves d p .transferring (.wrq name) .proceed
  | rrq {length : Word} {name : List Byte} (before : p = .awaitingRequest) :
    Moves d p (if length = 0 then .awaitingRequest else .transferring) (.rrq length name) .proceed
  | data {block : Half} {payload : List Byte} (before : p = .transferring ∨ p = .finalizing) :
    Moves d p p (.data block payload) .proceed
  | ack {block : Half} : Moves d p p (.ack block) .proceed
  | readBackEnd {block : Half} (before : p = .transferring) (read : d = .read) :
    Moves d p .awaitingRequest (.ack block) .proceed
  | debug : Moves d p p .debug .proceed
  | peerError {code : Half} : Moves d p (if d = .read then .awaitingRequest else p) (.error code) (.peerError code)
  | terminal {i : Instr} {code : Half} (before : p ≠ .idle) : Moves d p .idle i (.terminal code)
  | finalised {i : Instr} {c : Cat} (before : p = .transferring ∨ p = .finalizing) :
    Moves d p .finalizing i (.writeContext c)

theorem Moves.to {d : Dir} {p q : Phase} {i : Instr} {v : StepOutcome} {u : State} (moved : Moves d p q i v)
    (after : phase u = q) : Moves d p (phase u) i v := after ▸ moved

/-- Run from `s`, an action meets `Q` where it finishes. -/
abbrev Finishes {α : Type} (x : Act α) (s : State) (Q : α → State → Prop) : Prop := Ends x s Q fun _ _ => True

/-- Where the rule of the row `i` finishes, it moves the phase as the table says. -/
abbrev MovesPhase (i : Instr) (rule : Act StepOutcome) (s : State) : Prop :=
  Finishes rule s fun v u => Moves s.dir (phase s) (phase u) i v

section Finishes
variable {s t : State} {α : Type}

theorem Ends.finishes {x : Act α} {R Q : α → State → Prop} {E : Stop → State → Prop} (h : Ends x s R E)
    (done : ∀ a t, R a t → Q a t) : Finishes x s Q := h.mono done fun _ _ _ => trivial

theorem Called.sessionOpen {h : HandleId} {W : Device → Nat → Prop} (call : Called h W s t) :
    t.sessionOpen = s.sessionOpen := by
  obtain ⟨_, _, _, _, _, _, rfl⟩ := call.registers
  simp

theorem Called.tc {h : HandleId} {W : Device → Nat → Prop} (call : Called h W s t) : t.tc = s.tc := by
  obtain ⟨_, _, _, _, _, _, rfl⟩ := call.registers
  simp

theorem Called.phase {h : HandleId} {W : Device → Nat → Prop} (call : Called h W s t) : phase t = phase s :=
  phase_congr call.sessionOpen call.tc

theorem finishes_emit (f : List Byte) {Q : Unit → State → Prop} (sent : Q () (s.push f)) : Finishes (emit f) s Q :=
  ends_emit f sent trivial

theorem finishes_valueOf (r : Valueless) (v : Option α) {Q : α → State → Prop} (done : ∀ a, Q a s) :
    Finishes (valueOf r v) s Q := by
  cases v with
  | none => trivial
  | some a => exact done a

/-- A request whose tests pass has found no transfer open (41_frame_parser.md R165, R170). -/
theorem finishes_requestTarget (name : List Byte) {Q : Target → State → Prop}
    (done : ∀ target, s.tc.inProgress = false → Q target s) : Finishes (requestTarget name) s Q := by
  refine (ends_requestTarget name s).finishes ?_
  rintro target _ ⟨rfl, -, idle, -⟩
  exact done target idle

variable (opened : s.sessionOpen = true)
include opened

/-- A storage call of a request leaves the session open where the request goes on. -/
theorem finishes_requestCall {call : Act Bool} {cause : StorageCause} {h : HandleId} {W : Device → Nat → Prop}
    {Q : Unit → State → Prop} (called : Finishes call s fun _ t => Called h W s t)
    (done : ∀ t, t.sessionOpen = true → Q () t) : Finishes (requestCall call cause) s Q := by
  refine (ends_bind ..).mpr (called.finishes fun ok t call => ?_)
  cases ok with
  | true => exact done t (call.sessionOpen.trans opened)
  | false => trivial

theorem finishes_request_memInit {Q : Unit → State → Prop} (done : ∀ t, t.sessionOpen = true → Q () t) :
    Finishes (requestCall (memInit .tx) .init) s Q :=
  finishes_requestCall opened ((ends_memInit .tx s).finishes fun _ _ ran => ran.1) done

/-- The read-back emitter goes on with the transfer, or ends it where no byte is left (43_session_driver.md R240,
R241). -/
theorem finishes_rbEmit : Finishes rbEmit s fun v u =>
    v = .proceed ∧ phase u = if s.tc.expectedSize.toNat ≤ s.rbOff.toNat then .awaitingRequest else phase s := by
  simp only [rbEmit, ends_bind, ends_get]
  by_cases done : s.tc.expectedSize.toNat ≤ s.rbOff.toNat
  · simp only [if_pos done, readbackEnd, ends_bind, ends_get, ends_modify, ends_pure]
    exact finishes_valueOf _ _ fun _ => finishes_emit _ ⟨trivial, phase_of_idle opened rfl⟩
  · simp only [if_neg done, ends_bind, ends_require]
    refine ⟨fun _ => ?_, fun _ => trivial⟩
    refine (ends_memRead .tx s _ _).finishes fun bytes t ⟨call, _⟩ => ?_
    cases bytes with
    | none => trivial
    | some p =>
      simp only [ends_bind, ends_modify, ends_pure]
      exact finishes_emit _ ⟨trivial, call.phase⟩

/-! ### The rules of the frames -/

theorem movesPhase_readRequestRule (length : Word) (name : List Byte) :
    MovesPhase (.rrq length name) (readRequestRule length name) s := by
  refine (ends_bind ..).mpr (finishes_requestTarget name fun target idle => ?_)
  simp only [ends_bind, ends_get, ends_memBind, ends_modify]
  have bound (x : Handle) : (s.setHandle .tx x).sessionOpen = true := opened
  refine finishes_request_memInit (bound _) fun t opened' => (finishes_rbEmit ?opened).finishes ?_
  case opened => exact opened'
  rintro _ u ⟨rfl, after⟩
  have empty : length.toNat ≤ 0 ↔ length = 0 :=
    ⟨fun none => BitVec.eq_of_toNat_eq (Nat.le_zero.mp none), fun none => none ▸ Nat.le_refl 0⟩
  exact (Moves.rrq (phase_of_idle opened idle)).to
    (after.trans (if_congr empty rfl (phase_of_unfinished opened' rfl rfl)))

theorem movesPhase_writeRequestRule (name : List Byte) :
    MovesPhase (.wrq name) (writeRequestRule name) s := by
  refine (ends_bind ..).mpr (finishes_requestTarget name fun target idle => ?_)
  have moved := Moves.wrq (d := s.dir) (name := name) (phase_of_idle opened idle)
  simp only [ends_bind, ends_get, ends_memBind]
  have bound (x : Handle) : (s.setHandle .tx x).sessionOpen = true := opened
  refine finishes_request_memInit (bound _) fun t opened => ?_
  refine finishes_requestCall opened
    ((ends_bind ..).mpr ((ends_memFlush .tx t).finishes fun _ _ ran => ran.1)) fun t opened => ?_
  by_cases erases : erasesOnOpen s.cfg target.cat = true
  · simp only [if_pos erases, ends_bind, ends_modify, ends_pure]
    exact finishes_requestCall opened ((ends_memErase .tx t).finishes fun _ _ ran => ran.1) fun _ opened =>
      finishes_emit _ (moved.to (phase_of_unfinished opened rfl rfl))
  · simp only [if_neg erases, ends_bind, ends_modify, ends_pure]
    exact finishes_emit _ (moved.to (phase_of_unfinished opened rfl rfl))

theorem movesPhase_dataRule (block : Half) (payload : List Byte) :
    MovesPhase (.data block payload) (dataRule block payload) s := by
  simp only [dataRule, MovesPhase, ends_bind, ends_get, ends_require, ends_modify, ends_pure]
  refine ⟨fun busy => ⟨fun _ => ?_, fun _ => trivial⟩, fun _ => trivial⟩
  refine (ends_memWrite .tx s payload).finishes fun ok t ⟨call, _⟩ => ⟨fun _ => ?_, fun _ => trivial⟩
  exact finishes_emit _ ((Moves.data (phase_busy_cases opened busy)).to call.phase)

/-- A read-back is never in its finalising phase (42_command_dispatch.md R205). -/
theorem movesPhase_ackRule (block : Half) (finalising : s.tc.crcReceived = true → s.dir = .write) :
    MovesPhase (.ack block) (ackRule block) s := by
  simp only [ackRule, MovesPhase, ends_bind, ends_get, ends_require]
  refine ⟨fun busy => ⟨fun _ => ?_, fun _ => trivial⟩, fun _ => trivial⟩
  by_cases read : s.dir = .read
  · rw [if_pos read]
    have unfinished : s.tc.crcReceived = false :=
      Bool.eq_false_iff.mpr fun received => absurd (read.symm.trans (finalising received)) nofun
    refine (finishes_rbEmit opened).finishes ?_
    rintro _ u ⟨rfl, after⟩
    rw [after]
    split
    · exact .readBackEnd (phase_of_unfinished opened busy unfinished) read
    · exact .ack
  · rw [if_neg read]
    exact .ack

theorem movesPhase_errorRule (code : Half) : MovesPhase (.error code) (errorRule code) s := by
  simp only [errorRule, MovesPhase, ends_bind, ends_get, ends_require]
  refine ⟨fun _ => ?_, fun _ => trivial⟩
  by_cases read : s.dir = .read
  · rw [if_pos read]
    exact Moves.peerError.to ((phase_of_idle (s := contextReset s) opened rfl).trans (if_pos read).symm)
  · rw [if_neg read]
    exact Moves.peerError.to (if_neg read).symm

theorem movesPhase_terminalRule (i : Instr) (code : Half) : MovesPhase i (terminalRule code) s :=
  .terminal (phase_ne_idle opened)

theorem movesPhase_crcCommandRule (i : Instr) (received : Word) : MovesPhase i (crcCommandRule received) s := by
  simp only [crcCommandRule, MovesPhase, ends_bind, ends_get, ends_require]
  refine ⟨fun busy => finishes_valueOf _ _ fun target => finishes_valueOf _ _ fun d => ?_, fun _ => trivial⟩
  refine (ends_memFlush .tx s).finishes fun n t ⟨flush, _⟩ => ?_
  cases n with
  | none => trivial
  | some n =>
    refine (ends_bind ..).mpr ((ends_regionCrc .tx t _).finishes fun v u ⟨read, _⟩ => ?_)
    cases v with
    | none => trivial
    | some v =>
      simp only [ends_bind, ends_require, ends_modify, ends_pure]
      refine ⟨fun _ => (Moves.finalised (phase_busy_cases opened busy)).to ?_, fun _ => trivial⟩
      refine phase_markCrcReceived ?_ ?_
      · simp [State.setDesc, read.sessionOpen, flush.sessionOpen, opened]
      · simp [State.setDesc, read.tc, flush.tc, busy]

theorem movesPhase_commandRule (i : Instr) (code : Half) (tail : List Byte) :
    MovesPhase i (commandRule code tail) s := by
  cases command : commandOf s.cfg code with
  | none => exact (ends_of_error (run_commandRule_none command)).mpr trivial
  | some k =>
    by_cases crc : k = .crc
    · subst crc
      simp only [MovesPhase, Ends, run_commandRule_crc command]
      by_cases long : 4 ≤ tail.length
      · rw [if_pos long]
        exact movesPhase_crcCommandRule opened i (be32 tail 0)
      · rw [if_neg long]
        trivial
    · simp only [MovesPhase, Ends, run_commandRule_terminal command crc]
      exact movesPhase_terminalRule opened i code

end Finishes

/-! ### A frame's step (43_session_driver.md R230, R233) -/

theorem takeError_closes {e : Err} (effect : ¬ harmless e) (s : State) : (takeError e s).sessionOpen = false := by
  cases e with
  | framing | state => exact absurd trivial effect
  | transport c => cases c <;> rfl
  | _ => rfl

theorem errorReply_phase (e : Err) (s : State) : phase (errorReply e s) = phase s := by
  rcases errorReply_cases e s with same | same | ⟨f, same⟩ <;> rw [same] <;> rfl

/-- The phase a frame's step leaves: moved as the table says, or kept by an error without effect, or idle after any
other error. -/
def FramePhase (i : Instr) (s t : State) : Prop :=
  Moves s.dir (phase s) (phase t) i t.outcome ∨
    ∃ e, t.outcome = .error e ∧ (harmless e → phase t = phase s) ∧
      (¬ harmless e → phase t = .idle ∧ phase s ≠ .idle)

theorem frameStep_phase {k : Kind} {rule : Act StepOutcome} {i : Instr} {s t : State}
    (speaks : Speaks rule s.clearEmptyReads)
    (moves : s.clearEmptyReads.sessionOpen = true → MovesPhase i rule s.clearEmptyReads) (holds : s.powerHolds)
    (step : frameStep (do gate k; rule) s = .next t) : FramePhase i s t := by
  have gated : Speaks (do gate k; rule) s.clearEmptyReads := speaks_gate_bind speaks
  rcases frameStep_cases step with
    ⟨-, rfl⟩ | ⟨opened, ⟨v, u, ran, rfl⟩ | ⟨e, u, ran, rfl⟩ | ⟨u, ran, rfl⟩⟩
  · exact .inr ⟨_, rfl, fun _ => rfl, fun effect => absurd trivial effect⟩
  · have moved : MovesPhase i (do gate k; rule) s.clearEmptyReads :=
      (ends_bind ..).mpr (ends_gate (fun _ => moves opened) trivial)
    have moved := moved.ok ran
    exact .inl moved
  · have after : phase (finish (.error e) (errorReply e (takeError e u))) = phase (takeError e u) :=
      errorReply_phase e _
    refine .inr ⟨e, rfl, fun harm => ?_, fun effect => ⟨?_, phase_ne_idle opened⟩⟩
    · rw [after, takeError_harmless harm, (gated.error ran).unchanged e rfl harm]
      rfl
    · rw [after, phase_of_closed (takeError_closes effect u)]
  · exact absurd holds ((gated.error ran).power rfl)

/-- What every row of a frame does to the phase. -/
theorem exec_isFrame_phase {s t : State} {i : Instr} (frame : i.isFrame = true)
    (finalising : s.tc.crcReceived = true → s.dir = .write) (holds : s.powerHolds) (step : exec i s = .next t) :
    FramePhase i s t := by
  cases i with
  | rrq length name =>
    exact frameStep_phase (speaks_readRequestRule length name _) (movesPhase_readRequestRule · length name) holds step
  | wrq name => exact frameStep_phase (speaks_writeRequestRule name _) (movesPhase_writeRequestRule · name) holds step
  | data block payload =>
    exact frameStep_phase (speaks_dataRule block payload _) (movesPhase_dataRule · block payload) holds step
  | ack block =>
    exact frameStep_phase (speaks_ackRule block _) (movesPhase_ackRule · block finalising) holds step
  | error code => exact frameStep_phase (speaks_errorRule code _) (movesPhase_errorRule · code) holds step
  | cmd code tail =>
    exact frameStep_phase (speaks_commandRule code tail _) (movesPhase_commandRule · _ code tail) holds step
  | cmdCrc value =>
    exact frameStep_phase (speaks_crcCommandRule value _) (movesPhase_crcCommandRule · _ value) holds step
  | debug => exact frameStep_phase (speaks_proceed _) (fun _ => .debug) holds step
  | cmdBoot | cmdReset | cmdSwap | cmdBootInfo | cmdPowerOn | cmdPowerOff | cmdEnd | cmdSpiEnd | cmdTriggerWatchdog
  | cmdEraseSpi | cmdSetBank0 | cmdSetBank1 =>
    exact frameStep_phase (speaks_terminalRule _ _) (movesPhase_terminalRule · _ _) holds step
  | _ => cases frame

/-! ### An operation's step (43_session_driver.md R231, R233) -/

/-- No operation but SESSION_RESET moves the phase. -/
theorem exec_isOperation_phase {s t : State} {i : Instr} (operation : i.isOperation = true)
    (other : i ≠ .sessionReset) (holds : s.powerHolds) (step : exec i s = .next t) : phase t = phase s := by
  have session := (exec_isOperation_spares operation other step).session holds
  simp only [State.sessionPart, Prod.mk.injEq] at session
  obtain ⟨-, -, sessionOpen, -, tc, -⟩ := session
  exact phase_congr sessionOpen tc

/-- Settles O59: SESSION_RESET, the other operations, and the rows of the table for a frame. -/
theorem phaseTransitions : Obligations.PhaseTransitions := by
  intro s t i inv holds step
  refine ⟨?_, fun operation other => exec_isOperation_phase operation other holds step, fun frame => ?_⟩
  · rintro rfl
    obtain rfl : finish .proceed (reopenSession s) = t := Host.Outcome.next.inj step
    exact phase_of_idle rfl rfl
  · rcases exec_isFrame_phase frame inv.finalising holds step with moved | ⟨e, reported, kept, closed⟩
    · generalize t.outcome = v, phase t = q at moved ⊢
      cases moved with
      | wrq before => exact ⟨fun _ => ⟨before, rfl⟩, nofun, nofun, nofun, nofun⟩
      | rrq before =>
        refine ⟨nofun, ?_, nofun, nofun, nofun⟩
        rintro _ _ ⟨⟩
        exact ⟨before, rfl⟩
      | data before => exact ⟨nofun, nofun, fun _ => ⟨rfl, before⟩, nofun, nofun⟩
      | ack => exact ⟨nofun, nofun, nofun, fun _ => .inl rfl, nofun⟩
      | readBackEnd before read => exact ⟨nofun, nofun, nofun, fun _ => .inr ⟨before, rfl, read⟩, nofun⟩
      | debug => exact ⟨nofun, nofun, nofun, nofun, fun _ => rfl⟩
      | peerError => rfl
      | terminal before => exact ⟨rfl, before⟩
      | finalised before => exact ⟨rfl, before⟩
    · rw [reported]
      cases e with
      | framing | state => exact kept trivial
      | _ => exact closed id

end Sys2Proof.Machine
end

section
/-! The tests and pure parts of the validator (spec/44_descriptor_validator.md R261, R279, R290, R291): an operation on
a category that is not loaded, the selector written in memory, and the startup decision. -/

namespace Sys2Proof.Machine

/-! ### The test of LOADED (44_descriptor_validator.md R261) -/

section RequireLoaded
variable {s : State} {c : Cat}

theorem requireLoaded_bind (loaded : s.loaded c = true) {α : Type} (f : Unit → Act α) :
    (requireLoaded c >>= f) s = f () s :=
  run_bind_ok (by rw [run_requireLoaded, if_pos loaded])

theorem operationStep_unloaded (unloaded : s.loaded c = false) (f : Unit → Act StepOutcome) :
    operationStep (requireLoaded c >>= f) s = .next (s.refused (.state .notLoaded)) := by
  have stopped : requireLoaded c s = .error (.raised (.state .notLoaded)) s := by simp [run_requireLoaded, unloaded]
  exact operationStep_error (run_bind_error stopped)

/-- The operations that need `LOADED[c]`, CRC_REGION among them (R261; 40_crc_engine.md R150). -/
theorem exec_requireLoaded {i : Instr}
    (row : (∃ b, i = .validate c b) ∨ i = .swap c ∨ (∃ b size, i = .fixCrc c b size) ∨ i = .commit c ∨
      (∃ a, i = .setActive c a) ∨ ∃ b size, i = .crcRegion c b size) (s : State) :
    ∃ f, exec i s = operationStep (requireLoaded c >>= f) s := by
  rcases row with ⟨b, rfl⟩ | rfl | ⟨b, size, rfl⟩ | rfl | ⟨a, rfl⟩ | ⟨b, size, rfl⟩ <;> exact ⟨_, rfl⟩

end RequireLoaded

/-- A frame of a gated kind reaches its rule only where a frame of every kind does (41_frame_parser.md R164). -/
theorem reaches_of_gated {s : State} {k : Kind} (reaches : s.reaches k) (gated : Kind.gated k = true) (k' : Kind) :
    s.reaches k' :=
  reaches_of_notRead reaches.1 fun read => reaches.2 ⟨read, gated⟩

/-- Settles O37: `requireLoaded` is the first action of each operation and the last test of a request. -/
theorem notLoaded : Obligations.NotLoaded := by
  intro s c unloaded
  refine ⟨fun i row => ?_, fun i name t row reaches silent known sameCat idle => ?_⟩
  · obtain ⟨f, step⟩ := exec_requireLoaded row s
    rw [step, operationStep_unloaded unloaded]
  · obtain ⟨k, f, -, step⟩ := exec_request row s
    have stopped : requestTarget name s.clearEmptyReads = .error (.raised (.state .notLoaded)) s.clearEmptyReads :=
      run_requestTarget_unloaded known idle (sameCat ▸ unloaded)
    rw [step, frameStep_gate_rejected (reaches_of_gated reaches rfl k) (run_bind_error stopped) trivial silent]

/-! ### SET_ACTIVE (44_descriptor_validator.md R279) -/

/-- Settles O38: the selector is written and nothing is persisted. -/
theorem setActive : Obligations.SetActive := by
  intro s c a loaded
  have run : setActiveRule c a s = .ok .proceed (s.setActive c a) :=
    (requireLoaded_bind loaded _).trans (run_bind_ok (run_modify ..))
  exact operationStep_ok run

/-! ### The startup decision (44_descriptor_validator.md R290, R291) -/

section BootDecision
variable {v0 v1 : BankStatus} {active : Active} {request force : Bool}

theorem bootDecision_forced (forced : force = true ∨ request = true ∨ v0 = .invalid ∨ v1 = .invalid) :
    bootDecision v0 v1 active request force = .update := if_pos forced

/-- Where nothing forces update mode, the active bank boots if it is Valid, else the other one if that is. -/
theorem bootDecision_unforced (unforced : ¬ (force = true ∨ request = true ∨ v0 = .invalid ∨ v1 = .invalid)) :
    bootDecision v0 v1 active request force =
      match active with
      | .none => .update
      | .bank0 => if v0 = .valid then .boot .b0 else if v1 = .valid then .boot .b1 else .update
      | .bank1 => if v1 = .valid then .boot .b1 else if v0 = .valid then .boot .b0 else .update := by
  cases active <;> simp [bootDecision, if_neg unforced]

end BootDecision

/-- Settles O51: the forced cases, then the active bank and the other one by their status. -/
theorem bootDecision_iff : Obligations.BootDecision := by
  intro v active request force b
  by_cases forced : force = true ∨ request = true ∨ v .b0 = .invalid ∨ v .b1 = .invalid
  · rw [bootDecision_forced forced]
    simp only [reduceCtorEq, false_iff]
    rintro ⟨unforced, unasked, sound0, sound1, -⟩
    simp [unforced, unasked, sound0, sound1] at forced
  · rw [bootDecision_unforced forced]
    simp only [not_or, Bool.not_eq_true] at forced
    cases active with
    | none => simp
    | bank0 | bank1 =>
      by_cases valid0 : v .b0 = .valid <;> by_cases valid1 : v .b1 = .valid <;> cases b <;>
        simp [forced, valid0, valid1]

end Sys2Proof.Machine
end

section
/-! The operations that write a context, where storage answers (spec/44_descriptor_validator.md R265 to R269, R272 to
R274, R277; spec/60_exceptions.md R309): the device each of them leaves, in one form of the state. -/

namespace Sys2Proof.Machine

/-! ### One device replaced, the tapes, the free draws and SB_PM moved on -/

/-- `s` with the bytes `m` on the device `d`, and the tapes, the free draws and SB_PM as given: all that an operation
changes besides the registers of its category (44_descriptor_validator.md R260). -/
def State.stored (s : State) (d : Device) (m : Memory) (fates : List CallFate) (glitches : List (List Byte))
    (ctr : Nat) (x : Handle) : State :=
  { s.setStore d m with storageFates := fates, readGlitches := glitches, freeCtr := ctr, sbPm := x }

section Stored
variable (s : State) (d : Device) (m m' : Memory) (fates fates' : List CallFate) (glitches glitches' : List (List Byte))
  (ctr ctr' : Nat) (x x' : Handle) (c : Cat) (ctx ctx' : BootContext) (v : StepOutcome)

@[simp] theorem State.stored_cfg : (s.stored d m fates glitches ctr x).cfg = s.cfg := State.setStore_cfg ..
@[simp] theorem State.stored_store : (s.stored d m fates glitches ctr x).store d = m := State.setStore_store ..
@[simp] theorem State.stored_storageFates : (s.stored d m fates glitches ctr x).storageFates = fates := rfl
@[simp] theorem State.stored_readGlitches : (s.stored d m fates glitches ctr x).readGlitches = glitches := rfl

@[simp] theorem State.stored_freeCtr : (s.stored d m fates glitches ctr x).freeCtr = ctr := rfl

@[simp] theorem State.stored_stored :
    (s.stored d m fates glitches ctr x).stored d m' fates' glitches' ctr' x' =
      s.stored d m' fates' glitches' ctr' x' := by
  cases d <;> rfl

@[simp] theorem State.setBc_setBc : (s.setBc c ctx').setBc c ctx = s.setBc c ctx := by cases c <;> rfl

theorem State.stored_setBc :
    (s.stored d m fates glitches ctr x).setBc c ctx = (s.setBc c ctx).stored d m fates glitches ctr x := by
  cases c <;> cases d <;> rfl

theorem State.stored_setLoaded :
    (s.stored d m fates glitches ctr x).setLoaded c = (s.setLoaded c).stored d m fates glitches ctr x := by
  cases c <;> cases d <;> rfl

theorem State.stored_markCorrupt :
    (s.stored d m fates glitches ctr x).markCorrupt c = (s.markCorrupt c).stored d m fates glitches ctr x := by
  cases c <;> cases d <;> rfl

theorem State.stored_sectorWritten (n : Nat) (A : Area) : (s.stored d m fates glitches ctr x).sectorWritten d m' n A =
    s.stored d m' fates.tail.tail.tail.tail.tail glitches.tail (ctr + n) { bound := false, area := A, cur := 0 } :=
  State.stored_stored ..

/-- Only the tapes and SB_PM moved on. -/
theorem State.stored_same :
    ({ s with storageFates := fates, readGlitches := glitches, sbPm := x } : State) =
      s.stored d (s.store d) fates glitches s.freeCtr x := by
  cases d <;> rfl

/-- The state in which an operation ends that wrote a context, register by register. -/
theorem finish_stored_setBc :
    finish v ((s.setBc c ctx).stored d m fates glitches ctr x) = { (s.setStore d m).setBc c ctx with
      storageFates := fates, readGlitches := glitches, freeCtr := ctr, sbPm := x, outcome := v, crcAcc := none } := by
  cases c <;> cases d <;> rfl

/-- The state in which a LOAD ends, register by register. -/
theorem finish_stored_setLoaded :
    finish v (((s.setBc c ctx).setLoaded c).stored d m fates glitches ctr x) =
      { ((s.setStore d m).setBc c ctx).setLoaded c with
        storageFates := fates, readGlitches := glitches, freeCtr := ctr, sbPm := x, outcome := v, crcAcc := none } := by
  cases c <;> cases d <;> rfl

/-- The same after a LOAD that found both copies invalid (44_descriptor_validator.md R268). -/
theorem finish_stored_markCorrupt :
    finish v ((((s.markCorrupt c).setBc c ctx).setLoaded c).stored d m fates glitches ctr x) =
      { ((s.setStore d m).setBc c ctx).setLoaded c with
        forceUpdate := if c = .app then true else s.forceUpdate
        corruptApp := if c = .app then true else s.corruptApp
        corruptAux := if c = .aux then true else s.corruptAux
        storageFates := fates, readGlitches := glitches, freeCtr := ctr, sbPm := x, outcome := v, crcAcc := none } := by
  cases c <;> cases d <;> rfl

/-- What persisting a context leaves, in the form of `State.stored`. -/
theorem State.bothWritten_eq_stored : s.bothWritten c ctx =
    (s.setBc c (BootContext.sealed s.cfg c ctx)).stored (s.cfg.dev c)
      (bothRewritten s.cfg c ctx (s.store (s.cfg.dev c))) (s.storageFates.drop 10) (s.readGlitches.drop 2)
      (s.freeCtr + (copyImage s.cfg c ctx).length + (copyImage s.cfg c ctx).length)
      { bound := false, area := copyArea s.cfg c .backup, cur := 0 } := by
  unfold State.bothWritten
  generalize s.cfg.dev c = d
  cases c <;> cases d <;> rfl

theorem State.stored_bothWritten : (s.stored (s.cfg.dev c) m fates glitches ctr x).bothWritten c ctx =
    (s.setBc c (BootContext.sealed s.cfg c ctx)).stored (s.cfg.dev c) (bothRewritten s.cfg c ctx m) (fates.drop 10)
      (glitches.drop 2) (ctr + (copyImage s.cfg c ctx).length + (copyImage s.cfg c ctx).length)
      { bound := false, area := copyArea s.cfg c .backup, cur := 0 } := by
  rw [State.bothWritten_eq_stored, State.stored_setBc]
  simp

end Stored

/-! ### A part of an operation -/

/-- A part of an operation: SB_PM bound, its area tried, the body run where that answers true, SB_PM closed
(44_descriptor_validator.md R260). -/
theorem run_bracket {α β : Type} {A : Area} {tries : Act Bool} {body : Act β} {default : β} {k : β → Act α}
    {s u v : State} {ok : Bool} {r : β}
    (tried : tries (s.setHandle .pm { bound := true, area := A, cur := 0 }) = .ok ok u)
    (ran : (if ok = true then body else pure default) u = .ok r v) :
    (do
      memBind .pm A
      let r ← if ← tries then body else pure default
      memClose .pm
      k r) s = k r (v.setHandle .pm v.sbPm.close) := by
  refine (run_bind_ok (run_memBind ..)).trans ((run_bind_ok tried).trans ?_)
  cases ok <;> exact (run_bind_ok ran).trans (run_bind_ok (run_memClose ..))

/-! ### Persisting a context just written -/

section Persist
variable {s : State} {c : Cat}

/-- The context written to the register, then persisted (R277). -/
theorem run_persistBoth_setBc (wf : s.cfg.wf) (answers : s.storageAnswers)
    (canonical : Memory.wf (s.store (s.cfg.dev c))) (ctx : BootContext) :
    persistBoth c (s.setBc c ctx) = .ok true (s.bothWritten c ctx) := by
  have run := run_persistBoth (s := s.setBc c ctx) (by simpa using wf) (answers.congr (by simp) (by simp)) c
    (by simpa using canonical)
  rw [run, State.setBc_bc, State.bothWritten_eq_stored, State.bothWritten_eq_stored]
  simp

end Persist

/-! ### SWAP (44_descriptor_validator.md R272, R273) -/

theorem toggled_eq_ite (a : Active) : toggled a = if a = .bank0 then .bank1 else .bank0 := by
  cases a <;> rfl

/-- Settles O42: the selector is toggled and the context persisted; the own CRC does not cover the selector. -/
theorem swap : Obligations.Swap := by
  intro s c wf loaded answers canonical a
  set ctx : BootContext := { s.bc c with active := a }
  have written : s.setActive c (toggled (s.bc c).active) = s.setBc c ctx := by rw [toggled_eq_ite, State.setActive]
  have run : swapRule c s = .ok (.swapped a true) (s.bothWritten c ctx) := by
    calc swapRule c s
      _ = _ := requireLoaded_bind loaded _
      _ = _ := run_bind_ok (run_modify ..)
      _ = _ := run_bind_ok (run_get ..)
      _ = _ := by rw [written, State.setBc_bc]; exact run_bind_ok (run_persistBoth_setBc wf answers canonical ctx)
  rw [State.bothWritten_eq_stored] at run
  refine ⟨_, _, _, _, _, ?_, bothRewritten_holds wf c ctx canonical,
    (operationStep_ok run).trans (congrArg _ (finish_stored_setBc ..))⟩
  exact ⟨rfl, rfl⟩

/-! ### FIX_CRC (44_descriptor_validator.md R274) -/

/-- Settles O43: the bank's CRC, as CRC_REGION reads it, enters the descriptor, and the context is persisted. -/
theorem fixCrc : Obligations.FixCrc := by
  intro s c b size wf loaded answers canonical d n v ctx
  set A := bankArea s.cfg c b d
  split_ifs with inside
  · obtain ⟨fits, room⟩ := inside
    have read : bankCrc c b size s = .ok v (s.sectorRead A) :=
      run_bankCrc_inside answers (decide_eq_true fits) room
    have run : fixCrcRule c b size s = .ok (.fixed v true) ((s.sectorRead A).bothWritten c ctx) := by
      calc fixCrcRule c b size s
        _ = _ := requireLoaded_bind loaded _
        _ = _ := run_bind_ok read
        _ = _ := run_bind_ok (run_modify ..)
        _ = _ := run_bind_ok (run_persistBoth_setBc (s := s.sectorRead A) wf (answers.sectorRead A) canonical ctx)
    rw [State.sectorRead, s.stored_same (s.cfg.dev c), State.stored_bothWritten] at run
    refine ⟨_, _, _, _, _, ?_, bothRewritten_holds wf c ctx canonical,
      (operationStep_ok run).trans (congrArg _ (finish_stored_setBc ..))⟩
    exact ⟨rfl, rfl⟩
  · have rejected {t : State} (run : bankCrc c b size s = .error (.raised (.storage .read)) t) :
        exec (.fixCrc c b size) s = .next (finish (.error (.storage .read)) t) :=
      operationStep_error ((requireLoaded_bind loaded _).trans (run_bind_error run))
    by_cases fits : A.fits = true
    · have past := Nat.lt_of_not_le fun room => inside ⟨of_decide_eq_true fits, room⟩
      exact ⟨s.storageFates.tail.tail, s.readGlitches.tail, { bound := false, area := A, cur := 0 }, ⟨rfl, rfl⟩,
        rejected (run_bankCrc_past answers fits past)⟩
    · exact ⟨s.storageFates.tail, s.readGlitches, { bound := false, area := A, cur := 0 }, ⟨rfl, rfl⟩,
        rejected (run_bankCrc_unfit answers (by simpa using fits))⟩

/-! ### LOAD with a valid copy (44_descriptor_validator.md R265 to R267) -/

section LoadRepair
variable {s : State} {c : Cat}

theorem State.copiesRead_eq_stored (s : State) (c : Cat) :
    s.copiesRead c = s.stored (s.cfg.dev c) (s.store (s.cfg.dev c)) s.storageFates.tail.tail.tail.tail
      s.readGlitches.tail.tail s.freeCtr { bound := false, area := copyArea s.cfg c .backup, cur := 0 } :=
  s.stored_same ..

/-- A LOAD that repairs a copy rewrites that copy's sector and installs the context (R266, R267). -/
theorem exec_load_repair_eq (wf : s.cfg.wf) (answers : s.storageAnswers)
    (canonical : Memory.wf (s.store (s.cfg.dev c))) {ctx : BootContext} {src : LoadSource} {bad : Copy}
    (repairs : loadCases c (s.record c .primary) (s.record c .backup) (s.copiesRead c) =
      loadRepair c ctx src bad (s.copiesRead c)) :
    ∃ fates glitches ctr m h, h.isClosed ∧ holdsCopies s.cfg c ctx [bad] (s.store (s.cfg.dev c)) m ∧
      exec (.load c) s = .next { ((s.setStore (s.cfg.dev c) m).setBc c ctx).setLoaded c with
        storageFates := fates, readGlitches := glitches, freeCtr := ctr, sbPm := h
        outcome := .loaded src true, crcAcc := none } := by
  have run := ((run_loadRule wf answers c).trans repairs).trans
    (run_loadRepair (s := s.copiesRead c) wf (answers.copiesRead c) canonical ctx src bad)
  rw [State.copiesRead_store, State.copiesRead_eq_stored, State.stored_cfg, State.stored_sectorWritten,
    State.stored_setBc, State.stored_setLoaded] at run
  refine ⟨_, _, _, _, _, ?_, rewritten_holds wf c bad ctx canonical,
    (operationStep_ok run).trans (congrArg _ (finish_stored_setLoaded ..))⟩
  exact ⟨rfl, rfl⟩

end LoadRepair

/-- Settles O45: two equal valid copies leave the devices alone; else the copy not taken is rewritten. -/
theorem loadTakesAValidCopy : Obligations.LoadTakesAValidCopy := by
  intro s c wf answers canonical p b
  refine ⟨fun valid equal => ?_, fun valid differ => ?_, fun bad valid => ?_⟩
  · have step := exec_load_equal wf answers valid equal.symm
    exact ⟨(s.copiesRead c).storageFates, (s.copiesRead c).readGlitches, (s.copiesRead c).sbPm, ⟨rfl, rfl⟩,
      step.trans (by cases c <;> rfl)⟩
  · exact exec_load_repair_eq wf answers canonical (loadCases_primary (s := s.copiesRead c) valid differ)
  · exact exec_load_repair_eq wf answers canonical (loadCases_backup (s := s.copiesRead c) bad valid)

/-! ### LOAD with no valid copy, one of them empty (44_descriptor_validator.md R264, R269) -/

section LoadFresh
variable {s : State} {c : Cat} {p b : List Byte}

theorem loadCases_fresh (badPrimary : copyStatus s.cfg c p ≠ .valid) (badBackup : copyStatus s.cfg c b ≠ .valid)
    (empty : copyStatus s.cfg c p = .empty ∨ copyStatus s.cfg c b = .empty) : loadCases c p b s = loadFresh c s := by
  cases primary : copyStatus s.cfg c p <;> cases backup : copyStatus s.cfg c b <;>
    simp only [loadCases, run_bind, run_get, primary, backup]
  case valid.valid | valid.empty | valid.invalid => exact absurd primary badPrimary
  case empty.valid | invalid.valid => exact absurd backup badBackup
  case invalid.invalid => simp [primary, backup] at empty

theorem loadCases_corrupt (badPrimary : copyStatus s.cfg c p = .invalid) (badBackup : copyStatus s.cfg c b = .invalid) :
    loadCases c p b s = loadCorrupt c s := by
  simp only [loadCases, run_bind, run_get, badPrimary, badBackup]

end LoadFresh

/-- The end of both LOADs with no valid copy: a fresh context written to the register, persisted and installed (R265,
R268). -/
def persistFresh (c : Cat) (src : LoadSource) (ok : Bool → Bool) : Act StepOutcome := do
  let ctx := fresh (← get).cfg c
  modify fun s => s.setBc c ctx
  let done ← persistBoth c
  installContext c ctx src (ok done)

theorem loadFresh_eq (c : Cat) : loadFresh c = persistFresh c .fresh id := rfl

theorem run_persistFresh {s : State} {c : Cat} {m : Memory} {fates : List CallFate} {glitches : List (List Byte)}
    {ctr : Nat} {x : Handle} (wf : s.cfg.wf) (answers : (s.stored (s.cfg.dev c) m fates glitches ctr x).storageAnswers)
    (canonical : Memory.wf m) (src : LoadSource) (ok : Bool → Bool) :
    ∃ fates' glitches' ctr' x', x'.isClosed ∧
      persistFresh c src ok (s.stored (s.cfg.dev c) m fates glitches ctr x) = .ok (.loaded src (ok true))
        (((s.setBc c (fresh s.cfg c)).setLoaded c).stored (s.cfg.dev c) (bothRewritten s.cfg c (fresh s.cfg c) m)
          fates' glitches' ctr' x') := by
  set u := s.stored (s.cfg.dev c) m fates glitches ctr x with hu
  have cfg : u.cfg = s.cfg := s.stored_cfg ..
  have canonical' : Memory.wf (u.store (u.cfg.dev c)) := by rwa [cfg, hu, State.stored_store]
  have run : persistFresh c src ok u =
      .ok (.loaded src (ok true)) (((u.bothWritten c (fresh s.cfg c)).setBc c (fresh s.cfg c)).setLoaded c) := by
    calc persistFresh c src ok u
      _ = _ := run_bind_ok (run_get ..)
      _ = _ := run_bind_ok (run_modify ..)
      _ = _ := run_bind_ok (run_persistBoth_setBc (cfg ▸ wf) answers canonical' (fresh u.cfg c))
      _ = _ := by rw [cfg]; exact run_bind_ok (run_modify ..)
  rw [hu, State.stored_bothWritten, State.stored_setBc, State.setBc_setBc, State.stored_setLoaded] at run
  refine ⟨_, _, _, _, ?_, run⟩
  exact ⟨rfl, rfl⟩

theorem fresh_desc (cfg : Config) (c : Cat) (b : Bank) : (fresh cfg c).desc b = freshDescriptor cfg c b := by
  cases b <;> rfl

/-- Settles O46: the fresh context, whose own CRC is sealed already, is persisted from the copies as read. -/
theorem loadFresh_installs : Obligations.LoadFresh := by
  intro s c wf answers canonical badPrimary badBackup empty
  have answers' := answers.copiesRead c
  rw [State.copiesRead_eq_stored] at answers'
  obtain ⟨fates, glitches, ctr, x, closed, run⟩ := run_persistFresh wf answers' canonical .fresh id
  rw [← State.copiesRead_eq_stored] at run
  have cases := loadCases_fresh (s := s.copiesRead c) badPrimary badBackup empty
  rw [loadFresh_eq] at cases
  have load := ((run_loadRule wf answers c).trans cases).trans run
  refine ⟨fates, glitches, ctr, _, x, fresh s.cfg c, closed, bothRewritten_holds wf c _ canonical, rfl, rfl,
    fun b => ?_, (operationStep_ok load).trans (congrArg _ (finish_stored_setLoaded ..))⟩
  rw [fresh_desc]
  refine ⟨rfl, rfl, rfl, rfl, rfl, ?_⟩
  rintro rfl
  rfl

/-! ### LOAD with both copies invalid (44_descriptor_validator.md R268; 60_exceptions.md R309) -/

/-- Each bank of a well-formed configuration lies in the address space (20_memory.md R61). -/
theorem configuredArea_fits {cfg : Config} (wf : cfg.wf) (c : Cat) (b : Bank) :
    (configuredArea cfg c b).fits = true := by
  obtain ⟨-, fit, -⟩ := wf
  refine decide_eq_true (fit ⟨cfg.dev c, (cfg.geometry c b).start.toNat, (cfg.geometry c b).size.toNat⟩ ?_)
  cases c <;> cases b <;> simp [Config.regions, Config.dev, Config.geometry]

/-- A bank and a context sector of one category share no byte (00_scope.md R10). -/
theorem configuredArea_disjoint {cfg : Config} (wf : cfg.wf) {c : Cat} {b : Bank} {which : Copy} {a : Nat}
    (covered : (configuredArea cfg c b).covers (cfg.dev c) a) : ¬ (copyArea cfg c which).covers (cfg.dev c) a := by
  obtain ⟨⟨disjoint, -⟩, -⟩ := wf
  have apart : (cfg.geometry c b).start.toNat + (cfg.geometry c b).size.toNat ≤ (copyAddr cfg c which).toNat ∨
      (copyAddr cfg c which).toNat + (cfg.sectorSize (cfg.dev c)).toNat ≤ (cfg.geometry c b).start.toNat := by
    cases c <;> cases b <;> cases which <;>
      simp_all [Config.regionsDisjoint, Config.regions, Region.disjoint, copyAddr, Config.dev, Config.geometry]
  simp only [Area.covers, configuredArea, copyArea, true_and] at covered ⊢
  omega

/-- A device after an area of it is erased (20_memory.md R66). -/
def erasedStore (cfg : Config) (A : Area) (m : Memory) : Memory :=
  Memory.fill m A.start.toNat A.size.toNat cfg.erasedByte

theorem erasedStore_wf {m : Memory} (canonical : Memory.wf m) (cfg : Config) (A : Area) :
    Memory.wf (erasedStore cfg A m) := Memory.fill_wf canonical ..

theorem read_erasedBank {cfg : Config} {c : Cat} {m : Memory} (canonical : Memory.wf m) (b : Bank) (a : Nat) :
    Memory.read (erasedStore cfg (configuredArea cfg c b) m) a =
      if (configuredArea cfg c b).covers (cfg.dev c) a then cfg.erasedByte else Memory.read m a := by
  rw [erasedStore, Memory.read_fill canonical]
  exact if_congr (by simp [Area.covers, configuredArea]) rfl rfl

/-- The state a completed erase leaves, with its handle closed. -/
theorem erased_eq_stored (s : State) (A : Area) :
    let u := s.setHandle .pm { bound := true, area := A, cur := 0 }
    (((u.spendFate.spendFate.eraseArea A).setHandle .pm { bound := true, area := A, cur := 0 }).setHandle .pm
      { bound := false, area := A, cur := 0 }) =
      s.stored A.dev (erasedStore s.cfg A (s.store A.dev)) s.storageFates.tail.tail s.readGlitches s.freeCtr
        { bound := false, area := A, cur := 0 } := by
  obtain ⟨name, dev, start, size⟩ := A
  cases dev <;> rfl

/-- A bank's erase where storage answers (R268; 20_memory.md R66). -/
theorem run_eraseBank {s : State} (wf : s.cfg.wf) (answers : s.storageAnswers) (c : Cat) (b : Bank) :
    let A := configuredArea s.cfg c b
    eraseBank c b s = .ok true (s.stored (s.cfg.dev c) (erasedStore s.cfg A (s.store (s.cfg.dev c)))
      s.storageFates.tail.tail s.readGlitches s.freeCtr { bound := false, area := A, cur := 0 }) := by
  intro A
  have fits : A.fits = true := configuredArea_fits wf c b
  set u := s.setHandle .pm { bound := true, area := A, cur := 0 }
  have init : memInit .pm u = .ok true u.spendFate := memInit_ok answers.fate rfl fits
  have erase := memErase_ok (h := .pm) (s := u.spendFate) answers.spendFate.fate rfl fits
  exact ((run_bind_ok (run_get ..)).trans (run_bracket init erase)).trans (congrArg _ (erased_eq_stored s A))

/-- A device after both banks of a category are erased as the configuration places them (R268). -/
def banksErased (cfg : Config) (c : Cat) (m : Memory) : Memory :=
  erasedStore cfg (configuredArea cfg c .b1) (erasedStore cfg (configuredArea cfg c .b0) m)

theorem banksErased_wf {m : Memory} (canonical : Memory.wf m) (cfg : Config) (c : Cat) :
    Memory.wf (banksErased cfg c m) := erasedStore_wf (erasedStore_wf canonical ..) ..

theorem read_banksErased_inside {cfg : Config} {c : Cat} {m : Memory} (canonical : Memory.wf m) {b : Bank} {a : Nat}
    (covered : (configuredArea cfg c b).covers (cfg.dev c) a) :
    Memory.read (banksErased cfg c m) a = cfg.erasedByte := by
  rw [banksErased, read_erasedBank (erasedStore_wf canonical ..), read_erasedBank canonical]
  cases b with
  | b0 => rw [if_pos covered, ite_self]
  | b1 => rw [if_pos covered]

theorem read_banksErased_outside {cfg : Config} {c : Cat} {m : Memory} (canonical : Memory.wf m) {a : Nat}
    (outside : ∀ b, ¬ (configuredArea cfg c b).covers (cfg.dev c) a) :
    Memory.read (banksErased cfg c m) a = Memory.read m a := by
  rw [banksErased, read_erasedBank (erasedStore_wf canonical ..), if_neg (outside .b1),
    read_erasedBank canonical, if_neg (outside .b0)]

section LoadCorrupt
variable {s : State} {c : Cat} {m : Memory} {fates : List CallFate} {glitches : List (List Byte)} {ctr : Nat}
  {x : Handle}

theorem run_eraseBank_stored (wf : s.cfg.wf)
    (answers : (s.stored (s.cfg.dev c) m fates glitches ctr x).storageAnswers) (b : Bank) :
    let A := configuredArea s.cfg c b
    let t := s.stored (s.cfg.dev c) (erasedStore s.cfg A m) fates.tail.tail glitches ctr
      { bound := false, area := A, cur := 0 }
    eraseBank c b (s.stored (s.cfg.dev c) m fates glitches ctr x) = .ok true t ∧ t.storageAnswers := by
  intro A t
  have run := run_eraseBank (s := s.stored (s.cfg.dev c) m fates glitches ctr x) (by simpa using wf) answers c b
  simp only [State.stored_cfg, State.stored_store, State.stored_stored, State.stored_storageFates,
    State.stored_readGlitches, State.stored_freeCtr] at run
  exact ⟨run, answers.congr (fun f left => List.mem_of_mem_tail (List.mem_of_mem_tail left)) fun _ left => left⟩

/-- Both copies invalid: the flags set, the banks erased, then a fresh context persisted (R268). -/
theorem run_loadCorrupt (wf : s.cfg.wf)
    (answers : (s.stored (s.cfg.dev c) m fates glitches ctr x).storageAnswers) (canonical : Memory.wf m) :
    ∃ fates' glitches' ctr' x', x'.isClosed ∧
      loadCorrupt c (s.stored (s.cfg.dev c) m fates glitches ctr x) = .ok (.loaded .freshAfterErase true)
        ((((s.markCorrupt c).setBc c (fresh s.cfg c)).setLoaded c).stored (s.cfg.dev c)
          (bothRewritten s.cfg c (fresh s.cfg c) (banksErased s.cfg c m)) fates' glitches' ctr' x') := by
  have cfg : (s.markCorrupt c).cfg = s.cfg := State.markCorrupt_cfg ..
  have marked := s.stored_markCorrupt (s.cfg.dev c) m fates glitches ctr x c
  rw [← cfg] at wf answers marked ⊢
  set t := s.markCorrupt c
  obtain ⟨erase0, answers⟩ := run_eraseBank_stored (s := t) wf answers .b0
  obtain ⟨erase1, answers⟩ := run_eraseBank_stored wf answers .b1
  obtain ⟨fates', glitches', ctr', x', closed, run⟩ :=
    run_persistFresh wf answers (banksErased_wf canonical t.cfg c) .freshAfterErase (· && (true && true))
  refine ⟨fates', glitches', ctr', x', closed, ?_⟩
  calc loadCorrupt c (s.stored (t.cfg.dev c) m fates glitches ctr x)
    _ = _ := run_bind_ok (run_modify ..)
    _ = _ := by rw [marked]; exact run_bind_ok erase0
    _ = _ := run_bind_ok erase1
    _ = _ := run

end LoadCorrupt

/-- Settles O47: no bank meets a context sector, so each keeps what its own step left. -/
theorem loadCorrupt_installs : Obligations.LoadCorrupt := by
  intro s c wf answers canonical badPrimary badBackup
  have answers' := answers.copiesRead c
  rw [State.copiesRead_eq_stored] at answers'
  obtain ⟨fates, glitches, ctr, x, closed, run⟩ := run_loadCorrupt wf answers' canonical
  rw [← State.copiesRead_eq_stored] at run
  have load := ((run_loadRule wf answers c).trans
    (loadCases_corrupt (s := s.copiesRead c) badPrimary badBackup)).trans run
  set old := s.store (s.cfg.dev c)
  obtain ⟨image, frame⟩ := bothRewritten_holds wf c (fresh s.cfg c) (banksErased_wf canonical s.cfg c)
  refine ⟨fates, glitches, ctr, _, x, closed, fun which => image which (by cases which <;> simp),
    fun b a covered => ?_, fun a offCopies offBanks => ?_,
    (operationStep_ok load).trans (congrArg _ (finish_stored_markCorrupt ..))⟩
  · rw [frame a fun which _ => configuredArea_disjoint wf covered, read_banksErased_inside canonical covered]
  · rw [frame a fun which _ => offCopies which, read_banksErased_outside canonical offBanks]
    rfl

end Sys2Proof.Machine
end

section
/-! The operations that read, whatever their storage calls and the read oracle do short of a loss of power
(spec/44_descriptor_validator.md R262, R265, R270, R271; spec/60_exceptions.md R306; spec/20_memory.md R68): VALIDATE
as a function of the two values it can read, and what the first call that fails makes of each operation. -/

namespace Sys2Proof.Machine

/-! ### Calls that answer -/

/-- A call with this fate answers: it completes or it fails, and power is not lost (20_memory.md R68). -/
def CallFate.answers (f : CallFate) : Prop := f = .completes ∨ f = .fails

/-- The next `k` storage calls complete, the one after them fails, and `rest` follows. -/
def State.failsAt (s : State) (k : Nat) (rest : List CallFate) : Prop :=
  s.storageFates = List.replicate k .completes ++ .fails :: rest

section FailsAt
variable {s t : State} {k : Nat} {rest : List CallFate}

theorem State.failsAt.now (fails : s.failsAt 0 rest) : s.fate = .fails ∧ s.storageFates.tail = rest := by
  rw [State.fate, fails]
  exact ⟨rfl, rfl⟩

theorem State.failsAt.later (fails : s.failsAt (k + 1) rest) (fates : t.storageFates = s.storageFates.tail) :
    s.fate = .completes ∧ t.failsAt k rest := by
  rw [State.failsAt, fates, State.fate, fails]
  exact ⟨rfl, rfl⟩

theorem State.failsAt.answers (fails : s.failsAt k rest) : s.fate.answers := by
  cases k with
  | zero => exact .inr fails.now.1
  | succ k => exact .inl (fails.later (t := s.spendFate) rfl).1

end FailsAt

theorem fate_of_completes {s : State} (completes : ∀ f ∈ s.storageFates, f = .completes) : s.fate = .completes := by
  unfold State.fate
  cases fates : s.storageFates with
  | nil => rfl
  | cons f fs => exact completes f (by simp [fates])

section Answers
variable {s : State}

theorem memInit_answers (answers : s.fate.answers) (bound : s.sbPm.bound = true) :
    memInit .pm s = .ok (decide (s.fate = .completes ∧ s.sbPm.area.fits = true)) s.spendFate := by
  rw [run_memInit]
  rcases answers with fate | fate <;> simp [fate, bound]

theorem memRead_answers (answers : s.fate.answers) (bound : s.sbPm.bound = true) (fits : s.sbPm.area.fits = true)
    (n : Nat) : memRead .pm 0 n s =
      .ok (if s.fate = .completes ∧ n ≤ s.sbPm.area.size.toNat then some (s.readThrough .pm 0 n) else none)
        s.spendFate.spendGlitch := by
  rw [run_memRead]
  by_cases room : n ≤ s.sbPm.area.size.toNat <;> rcases answers with fate | fate <;> simp [fate, bound, fits, room]

/-- The CRC of the first `n` bytes of the area bound to SB_PM, where the next call completes and they lie inside it
(40_crc_engine.md R150; 93 U7). -/
def State.regionValue (s : State) (n : Word) : Option Word :=
  if s.fate = .completes ∧ n.toNat ≤ s.sbPm.area.size.toNat then some (crc32 s.cfg (s.readThrough .pm 0 n.toNat))
  else none

theorem regionCrc_answers (answers : s.fate.answers) (bound : s.sbPm.bound = true) (fits : s.sbPm.area.fits = true)
    (n : Word) : regionCrc .pm n s = .ok (s.regionValue n) s.spendFate.spendGlitch := by
  rw [run_regionCrc, memRead_answers answers bound fits, State.regionValue]
  split_ifs <;> rfl

theorem State.regionValue_of_fails (fails : s.fate = .fails) (n : Word) : s.regionValue n = none :=
  if_neg fun ready => by simp [fails] at ready

end Answers

/-! ### What an operation that only reads leaves -/

/-- Only the tapes and SB_PM differ. -/
def ReadOnly (s t : State) : Prop :=
  ∃ fates glitches x, t = { s with storageFates := fates, readGlitches := glitches, sbPm := x }

/-- Only the tapes and SB_PM differ, and SB_PM is closed (60_exceptions.md R306). -/
abbrev Released (s t : State) : Prop := ReadOnly s t ∧ t.sbPm.isClosed

section ReadOnly
variable {s t u : State}

theorem ReadOnly.trans (h : ReadOnly s t) (h' : ReadOnly t u) : ReadOnly s u := by
  obtain ⟨_, _, _, rfl⟩ := h
  obtain ⟨fates, glitches, x, rfl⟩ := h'
  exact ⟨fates, glitches, x, rfl⟩

theorem ReadOnly.spendFate (h : ReadOnly s t) : ReadOnly s t.spendFate :=
  h.trans ⟨_, _, _, rfl⟩

theorem ReadOnly.spendGlitch (h : ReadOnly s t) : ReadOnly s t.spendGlitch :=
  h.trans ⟨_, _, _, rfl⟩

theorem ReadOnly.bind (s : State) (x : Handle) : ReadOnly s (s.setHandle .pm x) := ⟨_, _, x, rfl⟩

theorem ReadOnly.close (h : ReadOnly s t) : Released s (t.setHandle .pm t.sbPm.close) :=
  ⟨h.trans (.bind t _), rfl, rfl⟩

/-- How an operation ends that only read, register by register. -/
theorem Released.finish (released : Released s t) {i : Instr} {v : StepOutcome}
    (step : exec i s = .next (Machine.finish v t)) :
    ∃ fates glitches h, h.isClosed ∧ exec i s = .next { s with
      storageFates := fates, readGlitches := glitches, sbPm := h, outcome := v, crcAcc := none } := by
  obtain ⟨⟨fates, glitches, x, rfl⟩, closed⟩ := released
  exact ⟨fates, glitches, x, closed, step⟩

end ReadOnly

/-! ### VALIDATE (44_descriptor_validator.md R270, R271) -/

/-- The verdict on a bank from the CRC its descriptor names, the first value read and the retry that a first value of 0
brings (R270). -/
def verdict (expected : Word) (first second : Option Word) : BankStatus :=
  if first = some expected ∨ (first = some 0 ∧ second = some expected) then .valid else .invalid

section Verdict
variable {expected v : Word} {second : Option Word}

theorem verdict_none : verdict expected none second = .invalid := if_neg (by simp)

theorem verdict_same : verdict expected (some expected) second = .valid := if_pos (.inl rfl)

theorem verdict_retry (differs : v ≠ expected) (zero : v = 0) :
    verdict expected (some v) second = if second = some expected then .valid else .invalid :=
  if_congr ⟨fun h => (h.resolve_left fun same => differs (Option.some.inj same)).2,
    fun same => .inr ⟨congrArg some zero, same⟩⟩ rfl rfl

theorem verdict_unretried (nonzero : expected ≠ 0) : verdict expected (some 0) none = .invalid :=
  (verdict_retry (Ne.symm nonzero) rfl).trans (if_neg nofun)

theorem verdict_mismatch (differs : v ≠ expected) (nonzero : v ≠ 0) : verdict expected (some v) second = .invalid :=
  if_neg fun h => h.elim (fun same => differs (Option.some.inj same)) fun h => nonzero (Option.some.inj h.1)

end Verdict

theorem run_bankStatus {u : State} {d : Descriptor} {n : Word} (bound : u.sbPm.bound = true)
    (fits : u.sbPm.area.fits = true) (answers : u.fate.answers)
    (again : u.regionValue n = some 0 → d.crc32 ≠ 0 → u.spendFate.fate.answers) :
    ∃ v, ReadOnly u v ∧
      bankStatus d n u = .ok (verdict d.crc32 (u.regionValue n) (u.spendFate.spendGlitch.regionValue n)) v := by
  have once : ReadOnly u u.spendFate.spendGlitch := ⟨_, _, _, rfl⟩
  have first := regionCrc_answers answers bound fits n
  simp only [bankStatus, run_bind, first]
  cases value : u.regionValue n with
  | none => exact ⟨_, once, by rw [verdict_none]; rfl⟩
  | some v =>
    by_cases same : v = d.crc32
    · exact ⟨_, once, by rw [same, verdict_same]; simp⟩
    · by_cases zero : v = 0
      · have second := regionCrc_answers (s := u.spendFate.spendGlitch)
          (again (value.trans (congrArg some zero)) fun none => same (zero.trans none.symm)) bound fits n
        refine ⟨_, once.spendFate.spendGlitch, ?_⟩
        dsimp only
        rw [verdict_retry same zero, if_neg same, if_pos zero, run_bind_ok second, run_pure]
      · refine ⟨_, once, ?_⟩
        dsimp only
        rw [verdict_mismatch same zero, if_neg same, if_neg zero, run_pure]

section Validate
variable {s : State} {c : Cat} {b : Bank}

theorem exec_validate_empty (loaded : s.loaded c = true) (empty : (s.desc c b).crc32 = sentinelCrc) :
    exec (.validate c b) s = .next (finish (.status .empty) s) := by
  refine operationStep_ok ((requireLoaded_bind loaded _).trans ((run_bind_ok (run_get ..)).trans ?_))
  rw [if_pos empty, run_pure]

/-- The status VALIDATE reports for a programmed bank, read through SB_PM: `u` is the state its MemInit leaves. -/
def State.bankVerdict (s : State) (c : Cat) (b : Bank) : BankStatus :=
  let d := s.desc c b
  let u := s.bankOpened c b
  if s.fate = .completes ∧ (bankArea s.cfg c b d).fits = true then
    verdict d.crc32 (u.regionValue (span c d)) (u.spendFate.spendGlitch.regionValue (span c d))
  else .invalid

/-- VALIDATE of a programmed bank, where every call it makes answers (R270). -/
theorem exec_validate (loaded : s.loaded c = true) (programmed : (s.desc c b).crc32 ≠ sentinelCrc)
    (init : s.fate.answers)
    (reads : s.fate = .completes → (s.bankOpened c b).fate.answers ∧
      ((s.bankOpened c b).regionValue (span c (s.desc c b)) = some 0 → (s.desc c b).crc32 ≠ 0 →
        (s.bankOpened c b).spendFate.fate.answers)) :
    ∃ t, Released s t ∧ exec (.validate c b) s = .next (finish (.status (s.bankVerdict c b)) t) := by
  set d := s.desc c b
  set A := bankArea s.cfg c b d
  set u := s.bankOpened c b
  have opened : ReadOnly s u := (ReadOnly.bind s _).spendFate
  have tried := memInit_answers (s := s.setHandle .pm { bound := true, area := A, cur := 0 }) init rfl
  obtain ⟨v, left, ran⟩ : ∃ v, ReadOnly s v ∧
      (if decide (s.fate = .completes ∧ A.fits = true) = true then bankStatus d (span c d) else pure .invalid) u =
        .ok (s.bankVerdict c b) v := by
    rw [State.bankVerdict]
    by_cases ready : s.fate = .completes ∧ A.fits = true
    · obtain ⟨read, again⟩ := reads ready.1
      obtain ⟨v, left, ran⟩ := run_bankStatus (u := u) (d := d) rfl ready.2 read again
      rw [if_pos (decide_eq_true ready), if_pos ready]
      exact ⟨v, opened.trans left, ran⟩
    · rw [if_neg (by simpa using ready), if_neg ready]
      exact ⟨u, opened, rfl⟩
  refine ⟨_, left.close, operationStep_ok ((requireLoaded_bind loaded _).trans ((run_bind_ok (run_get ..)).trans ?_))⟩
  rw [if_neg programmed]
  exact run_bracket tried ran

end Validate

theorem span_eq_ite (c : Cat) (d : Descriptor) :
    span c d = if c = .app then d.partitionSize else d.contentSize := by cases c <;> rfl

/-- The verdict on a bank where every call completes (R270, R271; 93 U7). -/
theorem bankVerdict_of_completes {s : State} (completes : ∀ f ∈ s.storageFates, f = .completes) (c : Cat) (b : Bank) :
    let d := s.desc c b
    let n := (span c d).toNat
    let bytes := Memory.readBytes (s.store (s.cfg.dev c)) d.startAddr.toNat n
    let v1 := crc32 s.cfg (glitched bytes (s.readGlitches.headD []))
    let v2 := crc32 s.cfg (glitched bytes (s.readGlitches.tail.headD []))
    s.bankVerdict c b =
      if d.startAddr.toNat + d.partitionSize.toNat ≤ 2 ^ 32 ∧ n ≤ d.partitionSize.toNat ∧
        (v1 = d.crc32 ∨ (v1 = 0 ∧ v2 = d.crc32)) then .valid else .invalid := by
  intro d n bytes v1 v2
  have completes' := fun f left => completes f (List.mem_of_mem_tail left)
  have completes'' := fun f left => completes' f (List.mem_of_mem_tail left)
  set u := s.bankOpened c b
  have first : u.regionValue (span c d) = if n ≤ d.partitionSize.toNat then some v1 else none :=
    if_congr (and_iff_right (fate_of_completes (s := u) completes')) rfl rfl
  have second : u.spendFate.spendGlitch.regionValue (span c d) = if n ≤ d.partitionSize.toNat then some v2 else none :=
    if_congr (and_iff_right (fate_of_completes (s := u.spendFate) completes'')) rfl rfl
  rw [State.bankVerdict, first, second]
  by_cases fits : d.startAddr.toNat + d.partitionSize.toNat ≤ 2 ^ 32
  · rw [if_pos ⟨fate_of_completes completes, decide_eq_true fits⟩]
    by_cases room : n ≤ d.partitionSize.toNat
    · rw [if_pos room, if_pos room]
      exact if_congr (by simp only [Option.some.injEq, fits, room, true_and]; rfl) rfl rfl
    · rw [if_neg room, if_neg room, verdict_none, if_neg fun h => room h.2.1]
  · rw [if_neg fun h => fits (of_decide_eq_true h.2), if_neg fun h => fits h.1]

/-- Settles O39: where every call completes, the verdict is on the two values as the read oracle gives them. -/
theorem validate : Obligations.Validate := by
  intro s c b loaded completes d n bytes v1 v2
  by_cases empty : d.crc32 = 0xDEADBEEF
  · rw [if_pos empty]
    exact exec_validate_empty loaded empty
  · have completes' := fun f left => completes f (List.mem_of_mem_tail left)
    have completes'' := fun f left => completes' f (List.mem_of_mem_tail left)
    obtain ⟨t, released, step⟩ := exec_validate loaded empty (.inl (fate_of_completes completes))
      fun _ => ⟨.inl (fate_of_completes (s := s.bankOpened c b) completes'),
        fun _ _ => .inl (fate_of_completes (s := (s.bankOpened c b).spendFate) completes'')⟩
    rw [bankVerdict_of_completes completes, span_eq_ite] at step
    rw [if_neg empty]
    exact released.finish step

/-! ### The first storage call that fails (60_exceptions.md R306) -/

section FailingCall
variable {s : State} {c : Cat} {b : Bank} {k : Nat} {rest : List CallFate}

/-- The first value a VALIDATE reads where its MemInit and its MemRead complete (R270; 93 U7). -/
theorem regionValue_bankOpened (completes : (s.bankOpened c b).fate = .completes) {n : Word} {first : Word}
    (value : crc32 s.cfg (glitched (Memory.readBytes (s.store (s.cfg.dev c)) (s.desc c b).startAddr.toNat n.toNat)
      (s.readGlitches.headD [])) = first) :
    (s.bankOpened c b).regionValue n = none ∨ (s.bankOpened c b).regionValue n = some first := by
  by_cases room : n.toNat ≤ (s.desc c b).partitionSize.toNat
  · exact .inr ((if_pos ⟨completes, room⟩).trans (congrArg some value))
  · exact .inl (if_neg fun ready => room ready.2)

/-- VALIDATE whose MemInit, whose MemRead, or whose retry fails (R270). -/
theorem exec_validate_failsAt (loaded : s.loaded c = true) (programmed : (s.desc c b).crc32 ≠ sentinelCrc)
    (fails : s.failsAt k rest)
    (early : k < 2 ∨ (k = 2 ∧ crc32 s.cfg (glitched (Memory.readBytes (s.store (s.cfg.dev c))
      (s.desc c b).startAddr.toNat (span c (s.desc c b)).toNat) (s.readGlitches.headD [])) = 0 ∧
      (s.desc c b).crc32 ≠ 0)) :
    ∃ t, Released s t ∧ exec (.validate c b) s = .next (finish (.status .invalid) t) := by
  set d := s.desc c b
  set u := s.bankOpened c b
  set n := span c d
  match k with
  | 0 =>
    obtain ⟨fate, -⟩ := fails.now
    have invalid : s.bankVerdict c b = .invalid := if_neg fun ready => by simp [fate] at ready
    exact invalid ▸ exec_validate loaded programmed fails.answers fun completes => by simp [fate] at completes
  | 1 =>
    obtain ⟨-, fails'⟩ := fails.later (t := u) rfl
    have unread : u.regionValue n = none := u.regionValue_of_fails fails'.now.1 n
    have invalid : s.bankVerdict c b = .invalid := by
      rw [State.bankVerdict, unread, verdict_none, ite_self]
    exact invalid ▸ exec_validate loaded programmed fails.answers fun _ =>
      ⟨fails'.answers, fun first => absurd (unread.symm.trans first) nofun⟩
  | 2 =>
    obtain ⟨-, fails'⟩ := fails.later (t := u) rfl
    obtain ⟨completes, fails''⟩ := fails'.later (t := u.spendFate.spendGlitch) rfl
    obtain ⟨-, zero, nonzero⟩ := early.resolve_left (by decide)
    have unread : u.spendFate.spendGlitch.regionValue n = none := State.regionValue_of_fails fails''.now.1 n
    have invalid : s.bankVerdict c b = .invalid := by
      rw [State.bankVerdict, unread]
      rcases regionValue_bankOpened completes zero with first | first
      · rw [first, verdict_none, ite_self]
      · rw [first, verdict_unretried nonzero, ite_self]
    exact invalid ▸ exec_validate loaded programmed fails.answers fun _ => ⟨fails'.answers, fun _ _ => fails''.answers⟩
  | k + 3 => omega

/-- An action that makes one MemRead and returns nothing where it fails (20_memory.md R64). -/
def ReadsOnce {β : Type} (body : Act (Option β)) : Prop :=
  ∀ s : State, s.fate.answers → s.sbPm.bound = true → s.sbPm.area.fits = true →
    ∃ r, body s = .ok r s.spendFate.spendGlitch ∧ (s.fate = .fails → r = none)

theorem readsOnce_memRead (n : Nat) : ReadsOnce (memRead .pm 0 n) := fun _ answers bound fits =>
  ⟨_, memRead_answers answers bound fits n, fun fails => if_neg fun ready => by simp [fails] at ready⟩

theorem readsOnce_regionCrc (n : Word) : ReadsOnce (regionCrc .pm n) := fun s answers bound fits =>
  ⟨_, regionCrc_answers answers bound fits n, fun fails => s.regionValue_of_fails fails n⟩

/-- A part of an operation that reads once: it returns nothing, or both its calls completed. -/
theorem run_bracket_failsAt {α β : Type} {A : Area} {body : Act (Option β)} {next : Option β → Act α}
    (reads : ReadsOnce body) (fails : s.failsAt k rest) :
    ∃ r t, Released s t ∧ (∀ v, r = some v → ∃ j, k = j + 2 ∧ t.failsAt j rest) ∧
      (do
        memBind .pm A
        let r ← if ← memInit .pm then body else pure none
        memClose .pm
        next r) s = next r t := by
  set u := s.setHandle .pm { bound := true, area := A, cur := 0 }
  have bound : ReadOnly s u := .bind s _
  have init := memInit_answers (s := u) fails.answers rfl
  by_cases ready : u.fate = .completes ∧ A.fits = true
  · obtain ⟨completes, fits⟩ := ready
    cases k with
    | zero => exact absurd (completes.symm.trans fails.now.1) nofun
    | succ k =>
      obtain ⟨-, fails⟩ := fails.later (t := u.spendFate) rfl
      obtain ⟨r, read, unread⟩ := reads u.spendFate fails.answers rfl fits
      refine ⟨r, _, bound.spendFate.spendFate.spendGlitch.close, fun v some_v => ?_, ?_⟩
      · cases k with
        | zero => exact absurd ((unread fails.now.1).symm.trans some_v) nofun
        | succ j => exact ⟨j, rfl, (fails.later rfl).2⟩
      · exact run_bracket init (by rw [if_pos (decide_eq_true ⟨completes, fits⟩)]; exact read)
  · have refused : decide (u.fate = .completes ∧ u.sbPm.area.fits = true) = false := decide_eq_false ready
    rw [refused] at init
    exact ⟨none, _, bound.spendFate.close, nofun, run_bracket init rfl⟩

/-- The CRC of a bank, one of its two calls failing (R274; 40_crc_engine.md R150). -/
theorem run_bankCrc_failsAt (fails : s.failsAt k rest) (early : k < 2) (size : Word) :
    ∃ t, Released s t ∧ bankCrc c b size s = .error (.raised (.storage .read)) t := by
  obtain ⟨r, t, released, late, run⟩ := run_bracket_failsAt (readsOnce_regionCrc _) fails
  refine ⟨t, released, (run_bind_ok (run_get ..)).trans (run.trans ?_)⟩
  cases r with
  | none => rfl
  | some v =>
    obtain ⟨j, rfl, -⟩ := late v rfl
    omega

theorem run_readCopy_failsAt (fails : s.failsAt k rest) (which : Copy) :
    ∃ r t, Released s t ∧ (∀ p, r = some p → ∃ j, k = j + 2 ∧ t.failsAt j rest) ∧ readCopy c which s = .ok r t := by
  obtain ⟨r, t, released, late, run⟩ := run_bracket_failsAt (readsOnce_memRead _) fails
  exact ⟨r, t, released, late, (run_bind_ok (run_get ..)).trans run⟩

/-- LOAD, one of the four calls that read its copies failing (R265). -/
theorem run_loadRule_failsAt (fails : s.failsAt k rest) (early : k < 4) :
    ∃ t, Released s t ∧ loadRule c s = .error (.raised (.storage .read)) t := by
  obtain ⟨p, t, released, late, primary⟩ := run_readCopy_failsAt (c := c) fails .primary
  cases p with
  | none => exact ⟨t, released, run_bind_ok primary⟩
  | some p =>
    obtain ⟨j, rfl, fails'⟩ := late p rfl
    obtain ⟨b, u, ⟨onlyRead, closed⟩, late, backup⟩ := run_readCopy_failsAt (c := c) fails' .backup
    cases b with
    | none => exact ⟨u, ⟨released.1.trans onlyRead, closed⟩, (run_bind_ok primary).trans (run_bind_ok backup)⟩
    | some b =>
      obtain ⟨i, rfl, -⟩ := late b rfl
      omega

end FailingCall

/-- Settles O40: the first call that fails ends the reading, whatever the tape holds after it. -/
theorem storageFailureInOperations : Obligations.StorageFailureInOperations := by
  intro s c b k rest fails d first
  refine ⟨fun loaded programmed early => ?_, fun early loaded i size row => ?_, fun early => ?_⟩
  · simp only [first, ← span_eq_ite] at early
    obtain ⟨t, released, step⟩ := exec_validate_failsAt loaded programmed fails early
    exact released.finish step
  · obtain ⟨t, released, run⟩ := run_bankCrc_failsAt (c := c) (b := b) fails early size
    refine released.finish (v := .error (.storage .read)) ?_
    rcases row with rfl | rfl <;>
      exact operationStep_error ((requireLoaded_bind loaded _).trans (run_bind_error run))
  · obtain ⟨t, released, run⟩ := run_loadRule_failsAt (c := c) fails early
    exact released.finish (operationStep_error run)

end Sys2Proof.Machine
end

section
/-! A call that fails while a context is persisted (spec/44_descriptor_validator.md R275, R277; spec/20_memory.md R68):
the first copy reports false with its sector alone changed, and the second is never begun. -/

namespace Sys2Proof.Machine

/-! ### What changes in one area -/

/-- Between two contents of a device no byte outside the area `A` differs, and the canonical form is kept. -/
structure ConfinedBytes (A : Area) (old m : Memory) : Prop where
  canonical : Memory.wf old → Memory.wf m
  bytes : Memory.wf old → ∀ a, ¬ A.covers A.dev a → Memory.read m a = Memory.read old a

section ConfinedBytes
variable {A : Area} {old mid m : Memory}

theorem ConfinedBytes.refl (A : Area) (m : Memory) : ConfinedBytes A m m := ⟨id, fun _ _ _ => rfl⟩

theorem ConfinedBytes.trans (h : ConfinedBytes A old mid) (h' : ConfinedBytes A mid m) : ConfinedBytes A old m :=
  ⟨fun wf => h'.canonical (h.canonical wf),
    fun wf a outside => (h'.bytes (h.canonical wf) a outside).trans (h.bytes wf a outside)⟩

/-- Bytes written from the area's start on (20_memory.md R65, R68). -/
theorem ConfinedBytes.writeBytes {bs : List Byte} (room : bs.length ≤ A.size.toNat) :
    ConfinedBytes A old (Memory.writeBytes old A.start.toNat bs) where
  canonical := fun wf => Memory.writeBytes_wf wf ..
  bytes := fun wf a outside => Memory.read_writeBytes_outside wf <| by
    by_contra inside
    exact outside ⟨rfl, by omega, by omega⟩

/-- The area erased (20_memory.md R66). -/
theorem ConfinedBytes.erased (cfg : Config) : ConfinedBytes A old (erasedStore cfg A old) where
  canonical := fun wf => erasedStore_wf wf ..
  bytes := fun wf a outside => by
    rw [erasedStore, Memory.read_fill wf, if_neg fun inside => outside ⟨rfl, inside⟩]

end ConfinedBytes

/-- From `s` to `t` only the bytes of `A`, the tapes, the free draws and SB_PM moved on. -/
def Worked (A : Area) (s t : State) : Prop :=
  ∃ m fates glitches ctr x, ConfinedBytes A (s.store A.dev) m ∧ t = s.stored A.dev m fates glitches ctr x

section Worked
variable {A : Area} {s t u : State}

theorem ReadOnly.worked (h : ReadOnly s t) (A : Area) : Worked A s t := by
  obtain ⟨fates, glitches, x, rfl⟩ := h
  exact ⟨_, _, _, _, _, .refl A _, s.stored_same A.dev fates glitches x⟩

theorem Worked.trans (h : Worked A s t) (h' : Worked A t u) : Worked A s u := by
  obtain ⟨m, _, _, _, _, bytes, rfl⟩ := h
  obtain ⟨m', fates, glitches, ctr, x, bytes', rfl⟩ := h'
  rw [State.stored_store] at bytes'
  exact ⟨m', fates, glitches, ctr, x, bytes.trans bytes', State.stored_stored ..⟩

theorem Worked.erased (A : Area) (s : State) (x : Handle) :
    Worked A s ((s.spendFate.eraseArea A).setHandle .pm x) := by
  refine ⟨erasedStore s.cfg A (s.store A.dev), s.storageFates.tail, s.readGlitches, s.freeCtr, x, .erased s.cfg, ?_⟩
  obtain ⟨name, dev, start, size⟩ := A
  cases dev <;> rfl

theorem Worked.programmed (s : State) {bytes : List Byte} (room : bytes.length ≤ A.size.toNat) (x : Handle) :
    Worked A s ((s.spendFate.program A.dev A.start.toNat bytes).setHandle .pm x) := by
  set left := Memory.programmed (s.store A.dev) s.cfg.erasedByte A.start.toNat s.freeCtr bytes with hleft
  refine ⟨Memory.writeBytes (s.store A.dev) A.start.toNat left, s.storageFates.tail, s.readGlitches,
    s.freeCtr + bytes.length, x, .writeBytes (by simpa [hleft] using room), ?_⟩
  rw [hleft]
  cases A.dev <;> rfl

theorem Worked.scrambled (s : State) {n : Nat} (room : n ≤ A.size.toNat) :
    Worked A s (s.spendFate.scramble A.dev A.start.toNat n) := by
  refine ⟨Memory.writeBytes (s.store A.dev) A.start.toNat (freeBytes s.freeCtr n), s.storageFates.tail, s.readGlitches,
    s.freeCtr + n, s.sbPm, .writeBytes (by simpa using room), ?_⟩
  cases A.dev <;> rfl

end Worked

/-! ### Actions that report a failed call -/

/-- From `s` the action makes `n` storage calls in the area `A`: if they complete it ends in `t` with true, and if one
of them fails it makes no further call and reports false. -/
structure Tries (A : Area) (n : Nat) (x : Act Bool) (s t : State) : Prop where
  worked : Worked A s t
  fails : ∀ k < n, ∀ rest, s.failsAt k rest → ∃ u, x s = .ok false u ∧ Worked A s u ∧ u.storageFates = rest
  ends : ∀ k rest, s.failsAt (n + k) rest → x s = .ok true t ∧ t.failsAt k rest

section Tries
variable {A : Area} {s t u : State}

/-- One storage call. -/
theorem Tries.call {x : Act Bool} (worked : Worked A s t) (fates : t.storageFates = s.storageFates.tail)
    (completes : s.fate = .completes → x s = .ok true t)
    (failing : s.fate = .fails → ∃ u, x s = .ok false u ∧ Worked A s u ∧ u.storageFates = s.storageFates.tail) :
    Tries A 1 x s t where
  worked := worked
  fails := fun k early rest fails => by
    obtain rfl : k = 0 := by omega
    obtain ⟨now, last⟩ := fails.now
    obtain ⟨u, run, worked, spent⟩ := failing now
    exact ⟨u, run, worked, spent.trans last⟩
  ends := fun k rest fails => by
    obtain ⟨now, later⟩ := (Nat.add_comm 1 k ▸ fails).later fates
    exact ⟨completes now, later⟩

theorem Tries.andThen {m n : Nat} {x y : Act Bool} (hx : Tries A m x s t) (hy : Tries A n y t u) :
    Tries A (m + n) (do if ← x then y else pure false) s u where
  worked := hx.worked.trans hy.worked
  fails := by
    intro k early rest fails
    by_cases first : k < m
    · obtain ⟨v, run, left⟩ := hx.fails k first rest fails
      exact ⟨v, run_bind_ok run, left⟩
    · obtain ⟨j, rfl⟩ := Nat.exists_eq_add_of_le (Nat.le_of_not_lt first)
      obtain ⟨run, later⟩ := hx.ends j rest fails
      obtain ⟨v, run', worked, spent⟩ := hy.fails j (by omega) rest later
      exact ⟨v, (run_bind_ok run).trans run', hx.worked.trans worked, spent⟩
  ends := fun k rest fails => by
    obtain ⟨run, later⟩ := hx.ends (n + k) rest (Nat.add_assoc m n k ▸ fails)
    obtain ⟨run', later'⟩ := hy.ends k rest later
    exact ⟨(run_bind_ok run).trans run', later'⟩

end Tries

/-! ### The storage calls on a bound area that exists (20_memory.md R63 to R68) -/

section Calls
variable {A : Area} {s : State} {cur : Word}

theorem tries_memInit (handle : s.sbPm = { bound := true, area := A, cur := cur }) (fits : A.fits = true) :
    Tries A 1 (memInit .pm) s s.spendFate := by
  have left : Worked A s s.spendFate := ReadOnly.worked ⟨_, _, _, rfl⟩ A
  refine .call left rfl (fun completes => memInit_ok completes (by simp [handle]) (by simp [handle, fits]))
    fun fails => ⟨_, ?_, left, rfl⟩
  rw [run_memInit, fails]

theorem tries_memFlush (handle : s.sbPm = { bound := true, area := A, cur := cur }) :
    Tries A 1 (do pure (← memFlush .pm).isSome) s s.spendFate := by
  have left : Worked A s s.spendFate := ReadOnly.worked ⟨_, _, _, rfl⟩ A
  refine .call left rfl (fun completes => run_bind_ok (memFlush_ok completes (by simp [handle]))) fun fails =>
    ⟨s.spendFate, run_bind_ok (a := none) ?_, left, rfl⟩
  rw [run_memFlush, fails]

theorem tries_memErase (handle : s.sbPm = { bound := true, area := A, cur := cur }) (fits : A.fits = true) :
    Tries A 1 (memErase .pm) s ((s.spendFate.eraseArea A).setHandle .pm { bound := true, area := A, cur := 0 }) := by
  have bound : (s.handle .pm).bound = true := by simp [handle]
  refine .call (.erased A s _) (by simp) (fun completes => ?_) fun fails => ⟨_, ?_, .scrambled s le_rfl, by simp⟩
  · rw [memErase_ok completes bound (by simp [handle, fits]), State.handle_pm, handle]
  · simp [run_memErase, fails, handle, fits]

theorem tries_memWrite (handle : s.sbPm = { bound := true, area := A, cur := 0 }) (fits : A.fits = true)
    {bytes : List Byte} (room : bytes.length ≤ A.size.toNat) :
    Tries A 1 (memWrite .pm bytes) s ((s.spendFate.program A.dev A.start.toNat bytes).setHandle .pm
      { bound := true, area := A, cur := BitVec.ofNat 32 bytes.length }) := by
  have bound : (s.handle .pm).bound = true := by simp [handle]
  have cursor : (s.handle .pm).cursor = A.start.toNat := by simp [handle, Handle.cursor]
  refine .call (.programmed s room _) (by simp) (fun completes => ?_) fun fails => ⟨_, ?_, .scrambled s room, by simp⟩
  · rw [memWrite_ok completes bound (by simp [handle, fits]) (by simpa [handle] using room), cursor, State.handle_pm,
      handle]
    simp
  · simp [run_memWrite, fails, handle, fits, room, Handle.cursor]

end Calls

/-! ### Persisting one copy (44_descriptor_validator.md R275) -/

/-- The four calls that write a copy: MemInit, MemErase, MemWrite, MemFlush. -/
theorem tries_writeCopy {A : Area} {s : State} (handle : s.sbPm = { bound := true, area := A, cur := 0 })
    (fits : A.fits = true) {image : List Byte} (room : image.length ≤ A.size.toNat) :
    ∃ t, Tries A 4 (writeCopy image) s t ∧
      t.sbPm = { bound := true, area := A, cur := BitVec.ofNat 32 image.length } :=
  ⟨_, (tries_memInit handle fits).andThen ((tries_memErase (s := s.spendFate) handle fits).andThen
    ((tries_memWrite rfl fits room).andThen (tries_memFlush rfl))), rfl⟩

theorem Worked.close {A : Area} {s t : State} (h : Worked A s t) :
    Worked A s (t.setHandle .pm t.sbPm.close) := h.trans (ReadOnly.worked (.bind t _) A)

/-- Persisting a copy reports false when one of its five calls fails, and makes no further call. -/
theorem run_persistCopy_failsAt {s : State} (wf : s.cfg.wf) {k : Nat} {rest : List CallFate} (fails : s.failsAt k rest)
    (early : k < 5) (c : Cat) (which : Copy) (ctx : BootContext) :
    ∃ t, persistCopy c which ctx s = .ok false t ∧ Worked (copyArea s.cfg c which) s t ∧ t.storageFates = rest ∧
      t.sbPm.isClosed := by
  obtain ⟨fits, -⟩ := copyArea_ok wf c which
  set A := copyArea s.cfg c which
  set u := s.setHandle .pm { bound := true, area := A, cur := 0 }
  have bound : Worked A s u := ReadOnly.worked (.bind s _) A
  obtain ⟨v, tries, opened⟩ := tries_writeCopy (s := u) rfl fits (copyImage_length wf c which ctx).le
  by_cases inWrite : k < 4
  · obtain ⟨w, run, worked, spent⟩ := tries.fails k inWrite rest fails
    exact ⟨_, (run_bind_ok (run_get ..)).trans (run_bracket run rfl), (bound.trans worked).close, spent, rfl, rfl⟩
  · obtain rfl : k = 4 := by omega
    obtain ⟨run, fails⟩ := tries.ends 0 rest fails
    have unread : memRead .pm 0 (recLen s.cfg c) v = .ok none v.spendFate.spendGlitch := by
      rw [memRead_answers fails.answers (by rw [opened]) (by rw [opened]; exact fits), if_neg]
      simp [fails.now.1]
    have left : Worked A v v.spendFate.spendGlitch := ReadOnly.worked ⟨_, _, _, rfl⟩ A
    exact ⟨_, (run_bind_ok (run_get ..)).trans (run_bracket run unread), ((bound.trans tries.worked).trans left).close,
      fails.now.2, rfl, rfl⟩

/-- Settles O44: COMMIT stops at the primary's failed call, in whose sector alone bytes changed. -/
theorem failedPrimaryKeepsBackup : Obligations.FailedPrimaryKeepsBackup := by
  intro s c k rest wf loaded canonical tape early
  set ctx := BootContext.sealed s.cfg c (s.bc c)
  have cfg : (s.setBc c ctx).cfg = s.cfg := State.setBc_cfg ..
  have fails : (s.setBc c ctx).failsAt k rest := (State.setBc_storageFates ..).trans tape
  obtain ⟨t, failed, ⟨m, fates, glitches, ctr, x, bytes, rfl⟩, spent, closed⟩ :=
    run_persistCopy_failsAt (cfg ▸ wf) fails early c .primary ctx
  rw [cfg] at failed bytes
  rw [State.setBc_store] at bytes
  obtain rfl : fates = rest := spent
  have run : commitRule c s = .ok (.committed false) ((s.setBc c ctx).stored (s.cfg.dev c) m fates glitches ctr x) := by
    calc commitRule c s
      _ = _ := requireLoaded_bind loaded _
      _ = _ := run_bind_ok ((persistBoth_eq c s).trans (run_bind_ok failed))
  exact ⟨glitches, ctr, m, x, closed, bytes.bytes canonical,
    (operationStep_ok run).trans (congrArg _ (finish_stored_setBc ..))⟩

end Sys2Proof.Machine
end

section
/-! What each class of error does (spec/60_exceptions.md R303 to R308, R310): a rule that raises has written no boot
context, one that raises an error which keeps the transfer has written nothing, and the effect of the error is the
rest. -/

namespace Sys2Proof.Machine

/-! ### The state a rule raises in -/

/-- From `s` to `t` no boot context is written or loaded, and EMPTY_READS stays. -/
structure Undisturbed (s t : State) : Prop where
  emptyReads : t.emptyReads = s.emptyReads
  bc : ∀ c, t.bc c = s.bc c
  loaded : ∀ c, t.loaded c = s.loaded c

/-- Where a rule begun in `s` raises: no boot context is written, and nothing at all where the error does not reset the
transfer (60_exceptions.md R303, R304, R307). -/
def RaisedAfter (s : State) : Stop → State → Prop
  | .raised e, t => Undisturbed s t ∧ (¬ resets e → t = s)
  | _, _ => True

/-- Where a rule run from `s` raises, it raises as `RaisedAfter` says. -/
abbrev Raises (rule : Act StepOutcome) (s : State) : Prop := Ends rule s (fun _ _ => True) (RaisedAfter s)

section Raises
variable {s t u : State} {α : Type}

theorem Undisturbed.refl (s : State) : Undisturbed s s := ⟨rfl, fun _ => rfl, fun _ => rfl⟩

theorem Undisturbed.trans (h : Undisturbed s t) (h' : Undisturbed t u) : Undisturbed s u where
  emptyReads := h'.emptyReads.trans h.emptyReads
  bc := fun c => (h'.bc c).trans (h.bc c)
  loaded := fun c => (h'.loaded c).trans (h.loaded c)

theorem Undisturbed.setHandle (h : Undisturbed s t) (id : HandleId) (x : Handle) :
    Undisturbed s (t.setHandle id x) :=
  h.trans ⟨State.setHandle_emptyReads .., State.setHandle_bc t id x, State.setHandle_loaded t id x⟩

theorem Called.undisturbed {h : HandleId} {W : Device → Nat → Prop} (call : Called h W s t) : Undisturbed s t := by
  obtain ⟨_, _, _, _, _, _, rfl⟩ := call.registers
  exact ⟨State.setHandle_emptyReads .., fun _ => State.setHandle_bc .., fun _ => State.setHandle_loaded ..⟩

/-- Any error, raised before any change. -/
theorem raisedAfter_unchanged (e : Err) (s : State) : RaisedAfter s (.raised e) s := ⟨.refl s, fun _ => rfl⟩

/-- An error that resets the transfer, raised later. -/
theorem Undisturbed.raisedAfter (kept : Undisturbed s t) {e : Err} (he : resets e) : RaisedAfter s (.raised e) t :=
  ⟨kept, fun other => absurd he other⟩

/-- A storage call stops at a loss of power or at a fault only. -/
theorem Broke.raisedAfter {h : HandleId} {W : Device → Nat → Prop} {e : Stop} (broke : Broke h W t e u) :
    RaisedAfter s e u := by
  cases e with
  | raised => exact broke.elim
  | powerLost | fault => trivial

theorem raises_valueOf (r : Valueless) (v : Option α) {Q : α → State → Prop} (done : ∀ a, Q a t) :
    Ends (valueOf r v) t Q (RaisedAfter s) := by
  cases v with
  | none => trivial
  | some a => exact done a

/-- A storage call that is only tested for failure. -/
theorem Undisturbed.ends_call (kept : Undisturbed s t) {h : HandleId} {W : Device → Nat → Prop} {x : Act α}
    {R Q : α → State → Prop} (call : Ends x t R (Broke h W t)) (called : ∀ a u, R a u → Called h W t u)
    (done : ∀ a u, Undisturbed s u → Q a u) : Ends x t Q (RaisedAfter s) :=
  call.mono (fun a u ran => done a u (kept.trans (called a u ran).undisturbed)) fun _ _ broke => broke.raisedAfter

theorem Undisturbed.ends_memInit (kept : Undisturbed s t) {Q : Bool → State → Prop}
    (done : ∀ ok u, Undisturbed s u → Q ok u) : Ends (memInit .tx) t Q (RaisedAfter s) :=
  kept.ends_call ((Machine.ends_memInit .tx t).mono (fun _ _ => id) fun _ _ lost => lost.broke)
    (fun _ _ ran => ran.1) done

theorem Undisturbed.ends_memFlush (kept : Undisturbed s t) {Q : Option Word → State → Prop}
    (done : ∀ n u, Undisturbed s u → Q n u) : Ends (memFlush .tx) t Q (RaisedAfter s) :=
  kept.ends_call ((Machine.ends_memFlush .tx t).mono (fun _ _ => id) fun _ _ lost => lost.broke)
    (fun _ _ ran => ran.1) done

/-- An emission that fails raises `Transport(Write)` (43_session_driver.md R234). -/
theorem Undisturbed.ends_emit (kept : Undisturbed s t) (f : List Byte) {Q : Unit → State → Prop}
    (sent : Q () (t.push f)) : Ends (emit f) t Q (RaisedAfter s) :=
  have dropped : Undisturbed s t.dropPush := kept.trans ⟨rfl, fun _ => rfl, fun _ => rfl⟩
  Machine.ends_emit f sent (dropped.raisedAfter (e := .transport .write) trivial)

/-- A storage call of a request that fails raises `Storage` (60_exceptions.md R306). -/
theorem Undisturbed.ends_requestCall {call : Act Bool} {cause : StorageCause} {Q : Unit → State → Prop}
    (h : Ends call t (fun _ u => Undisturbed s u) (RaisedAfter s)) (done : ∀ u, Undisturbed s u → Q () u) :
    Ends (requestCall call cause) t Q (RaisedAfter s) := by
  refine (ends_bind ..).mpr (h.mono (fun ok u kept => ?_) fun _ _ stop => stop)
  cases ok with
  | true => exact done u kept
  | false => exact (kept.setHandle .tx _).raisedAfter (e := .storage cause) trivial

/-! ### The rules of the frames -/

/-- The read-back emitter; a block whose number overflows is met at the first action of a step alone. -/
theorem Undisturbed.raises_rbEmit (kept : Undisturbed s t) (overflown : 0xFFFF < t.rbOff.toNat / 512 → t = s) :
    Ends rbEmit t (fun _ _ => True) (RaisedAfter s) := by
  simp only [rbEmit, ends_bind, ends_get]
  by_cases done : t.tc.expectedSize.toNat ≤ t.rbOff.toNat
  · simp only [if_pos done, readbackEnd, ends_bind, ends_get, ends_modify, ends_pure]
    exact raises_valueOf _ _ fun _ => kept.ends_emit _ trivial
  · simp only [if_neg done, ends_bind, ends_require]
    refine ⟨fun _ => ?_, fun overflow => ⟨kept, fun _ => overflown (Nat.lt_of_not_le overflow)⟩⟩
    refine kept.ends_call (ends_memRead .tx t _ _) (fun _ _ ran => ran.1) fun bytes u kept => ?_
    cases bytes with
    | none => exact kept.raisedAfter trivial
    | some p =>
      simp only [ends_bind, ends_modify, ends_pure]
      exact kept.ends_emit _ trivial

theorem raises_of_requestTarget {name : List Byte} {f : Target → Act StepOutcome}
    (accepted : ∀ target, Raises (f target) s) : Raises (requestTarget name >>= f) s := by
  refine (ends_bind ..).mpr ((ends_requestTarget name s).mono ?_ ?_)
  · rintro target _ ⟨rfl, -⟩
    exact accepted target
  · rintro _ _ ⟨rfl, e, rfl, -⟩
    exact raisedAfter_unchanged e _

theorem raises_readRequestRule (length : Word) (name : List Byte) (s : State) :
    Raises (readRequestRule length name) s := by
  refine raises_of_requestTarget fun target => ?_
  simp only [ends_bind, ends_get, ends_memBind, ends_modify]
  refine Undisturbed.ends_requestCall (((Undisturbed.refl s).setHandle .tx _).ends_memInit fun _ _ kept => kept)
    fun u kept => ?_
  have opened := kept.trans (u := { u with
    tc := { inProgress := true, targetId := some target, lastBlock := 0, expectedSize := length, crcReceived := false }
    dir := .read
    rbOff := 0 }) ⟨rfl, fun _ => rfl, fun _ => rfl⟩
  exact opened.raises_rbEmit fun overflow => absurd overflow (by simp)

theorem raises_writeRequestRule (name : List Byte) (s : State) : Raises (writeRequestRule name) s := by
  refine raises_of_requestTarget fun target => ?_
  simp only [ends_bind, ends_get, ends_memBind]
  refine Undisturbed.ends_requestCall (((Undisturbed.refl s).setHandle .tx _).ends_memInit fun _ _ kept => kept)
    fun t kept => ?_
  refine Undisturbed.ends_requestCall ((ends_bind ..).mpr (kept.ends_memFlush fun _ _ kept => kept)) fun u kept => ?_
  have acknowledged {v : State} (kept : Undisturbed s v) (tc : TransferContext) :
      Ends (emit (Frame.bytes (.ack 0))) { v with tc := tc, dir := .write } (fun _ _ => True) (RaisedAfter s) := by
    refine Undisturbed.ends_emit ?later _ trivial
    exact kept.trans ⟨rfl, fun _ => rfl, fun _ => rfl⟩
  by_cases erases : erasesOnOpen s.cfg target.cat = true
  · simp only [if_pos erases, ends_bind, ends_modify, ends_pure]
    exact Undisturbed.ends_requestCall
      (kept.ends_call (ends_memErase .tx u) (fun _ _ ran => ran.1) fun _ _ kept => kept)
      fun _ kept => acknowledged kept _
  · simp only [if_neg erases, ends_bind, ends_modify, ends_pure]
    exact acknowledged kept _

theorem raises_dataRule (block : Half) (payload : List Byte) (s : State) : Raises (dataRule block payload) s := by
  simp only [dataRule, Raises, ends_bind, ends_get, ends_require, ends_modify, ends_pure]
  refine ⟨fun _ => ⟨fun _ => ?_, fun _ => raisedAfter_unchanged _ s⟩, fun _ => raisedAfter_unchanged _ s⟩
  refine (Undisturbed.refl s).ends_call (ends_memWrite .tx s payload) (fun _ _ ran => ran.1) fun ok t kept => ?_
  refine ⟨fun _ => ?_, fun _ => kept.raisedAfter trivial⟩
  refine Undisturbed.ends_emit ?later _ trivial
  exact kept.trans ⟨rfl, fun _ => rfl, fun _ => rfl⟩

theorem raises_ackRule (block : Half) (s : State) : Raises (ackRule block) s := by
  simp only [ackRule, Raises, ends_bind, ends_get, ends_require]
  refine ⟨fun _ => ⟨fun _ => ?_, fun _ => raisedAfter_unchanged _ s⟩, fun _ => raisedAfter_unchanged _ s⟩
  by_cases read : s.dir = .read
  · rw [if_pos read]
    exact (Undisturbed.refl s).raises_rbEmit fun _ => rfl
  · rw [if_neg read]
    trivial

theorem raises_errorRule (code : Half) (s : State) : Raises (errorRule code) s := by
  simp only [errorRule, Raises, ends_bind, ends_get, ends_require]
  refine ⟨fun _ => ?_, fun _ => raisedAfter_unchanged _ s⟩
  by_cases read : s.dir = .read
  · rw [if_pos read]
    trivial
  · rw [if_neg read]
    trivial

theorem raises_terminalRule (code : Half) (s : State) : Raises (terminalRule code) s := trivial

/-- The descriptor is written after the last test of the finalising CRC (42_command_dispatch.md R205). -/
theorem raises_crcCommandRule (received : Word) (s : State) : Raises (crcCommandRule received) s := by
  simp only [crcCommandRule, Raises, ends_bind, ends_get, ends_require]
  refine ⟨fun _ => raises_valueOf _ _ fun target => raises_valueOf _ _ fun d => ?_,
    fun _ => raisedAfter_unchanged _ s⟩
  refine (Undisturbed.refl s).ends_memFlush fun n t kept => ?_
  cases n with
  | none => exact kept.raisedAfter trivial
  | some n =>
    refine (ends_bind ..).mpr (kept.ends_call (ends_regionCrc .tx t _) (fun _ _ ran => ran.1) fun v u kept => ?_)
    cases v with
    | none => exact kept.raisedAfter trivial
    | some v =>
      simp only [ends_bind, ends_require, ends_modify, ends_pure]
      exact ⟨fun _ => trivial, fun _ => kept.raisedAfter trivial⟩

theorem raises_commandRule (code : Half) (tail : List Byte) (s : State) : Raises (commandRule code tail) s := by
  cases command : commandOf s.cfg code with
  | none => exact (ends_of_error (run_commandRule_none command)).mpr (raisedAfter_unchanged _ s)
  | some k =>
    by_cases crc : k = .crc
    · subst crc
      simp only [Raises, Ends, run_commandRule_crc command]
      by_cases long : 4 ≤ tail.length
      · rw [if_pos long]
        exact raises_crcCommandRule (be32 tail 0) s
      · rw [if_neg long]
        exact raisedAfter_unchanged _ s
    · simp only [Raises, Ends, run_commandRule_terminal command crc]
      exact raises_terminalRule code s

theorem raises_gate_bind {k : Kind} {rule : Act StepOutcome} (h : Raises rule s) : Raises (do gate k; rule) s :=
  (ends_bind ..).mpr (ends_gate (fun _ => h) (raisedAfter_unchanged _ s))

theorem raises_frameRule (f : Frame) (s : State) : Raises (frameRule f) s := by
  refine raises_gate_bind ?_
  cases f with
  | rrq length name => exact raises_readRequestRule length name s
  | wrq name => exact raises_writeRequestRule name s
  | data block payload => exact raises_dataRule block payload s
  | ack block => exact raises_ackRule block s
  | error code => exact raises_errorRule code s
  | cmd code tail => exact raises_commandRule code tail s
  | debug => trivial

theorem raises_malformedRule (e : FrameError) (s : State) : Raises (malformedRule e) s := by
  cases e with
  | size | sentinel | opcode => exact raisedAfter_unchanged _ s
  | kindSize k | noName k => exact raises_gate_bind (raisedAfter_unchanged _ s)

end Raises

/-! ### The effect of an error (60_exceptions.md R303 to R308) -/

theorem takeError_bc (e : Err) (s : State) (c : Cat) : (takeError e s).bc c = s.bc c := by
  cases e with
  | transport cause => cases cause <;> rfl
  | _ => rfl

theorem takeError_loaded (e : Err) (s : State) (c : Cat) : (takeError e s).loaded c = s.loaded c := by
  cases e with
  | transport cause => cases cause <;> rfl
  | _ => rfl

theorem takeError_emptyReads {e : Err} {s : State} (clear : s.emptyReads = false) :
    (takeError e s).emptyReads = false := by
  cases e with
  | transport cause =>
    cases cause with
    | emptyRead => rfl
    | write => exact clear
  | _ => exact clear

theorem contextReset_unbound (s : State) : (contextReset s).sbTx.bound = false := by
  rw [contextReset_sbTx]
  by_cases bound : s.sbTx.bound = true
  · rw [if_pos bound]
    rfl
  · rw [if_neg bound]
    simpa using bound

/-- An error that resets the transfer closes the session and SB_TX too (60_exceptions.md R305, R306, R308). -/
theorem takeError_resets {e : Err} (he : resets e) (s : State) :
    (takeError e s).sessionOpen = false ∧ (takeError e s).tc = TransferContext.blank ∧
      (takeError e s).dir = .noDir ∧ (takeError e s).rbOff = 0 ∧ (takeError e s).sbTx.bound = false := by
  have unbound := contextReset_unbound s
  cases e with
  | crcMismatch | storage => exact ⟨rfl, rfl, rfl, rfl, unbound⟩
  | transport cause => cases cause <;> exact ⟨rfl, rfl, rfl, rfl, unbound⟩
  | framing | sequence | state => exact he.elim

/-! ### A step that reports an error -/

/-- What a step from `s` to `t` that reports `e` was, where no error is replied: a rule raised `e` in a state `u` that
differs from `s` in no boot context and in no frame emitted, and `e` took its effect there. -/
def TookError (s t : State) (e : Err) : Prop :=
  ∃ u, t = finish (.error e) (takeError e u) ∧ u.txq = s.txq ∧ Undisturbed s.clearEmptyReads u ∧
    (¬ resets e → u = s.clearEmptyReads)

section Steps
variable {s t : State} {e : Err}
  (opened : s.sessionOpen = true) (holds : s.powerHolds) (silent : s.cfg.errorReply = .none)
  (reported : t.outcome = .error e)
include opened holds silent reported

theorem frameStep_tookError {rule : Act StepOutcome} (speaks : Speaks rule s.clearEmptyReads)
    (raises : Raises rule s.clearEmptyReads) (step : frameStep rule s = .next t) : TookError s t e := by
  rcases frameStep_cases step with
    ⟨closed, -⟩ | ⟨-, ⟨v, u, ran, rfl⟩ | ⟨x, u, ran, rfl⟩ | ⟨u, ran, rfl⟩⟩
  · exact absurd (closed.symm.trans opened) nofun
  · exact absurd reported ((speaks.ok ran).1 e)
  · obtain rfl : x = e := StepOutcome.error.inj reported
    have stop := speaks.error ran
    obtain ⟨kept, unchanged⟩ := raises.error ran
    have cfg : (takeError x u).cfg = s.cfg := (takeError_quiet x u).cfg.trans stop.cfg
    exact ⟨u, by rw [errorReply_of_none (cfg ▸ silent)], stop.txq, kept, unchanged⟩
  · exact absurd holds ((speaks.error ran).power rfl)

/-- The empty read reports an error where the last one was empty too (43_session_driver.md R232). -/
theorem emptyReadStep_tookError (step : emptyReadStep s = .next t) : TookError s t e := by
  rw [emptyReadStep_open opened] at step
  cases reads : s.emptyReads with
  | false =>
    rw [run_emptyReadRule_first reads] at step
    obtain rfl := Host.Outcome.next.inj step
    cases reported
  | true =>
    refine frameStep_tookError opened holds silent reported (rule := raise (.transport .emptyRead))
      (speaks_raise _ _) (raisedAfter_unchanged _ _) ?_
    rw [frameStep, if_neg (by simp [opened]), run_raise, ← run_emptyReadRule_second reads, step]

/-- Every row of a frame, the empty read and FRAME_IN among them, that reports an error. -/
theorem exec_tookError {i : Instr} (row : i.isFrame = true ∨ i = .empty ∨ i = .frameIn)
    (step : exec i s = .next t) : TookError s t e := by
  have took {rule : Act StepOutcome} (speaks : Speaks rule s.clearEmptyReads)
      (raises : Raises rule s.clearEmptyReads) (step : frameStep rule s = .next t) : TookError s t e :=
    frameStep_tookError opened holds silent reported speaks raises step
  have framed (f : Frame) (step : frameStep (frameRule f) s = .next t) : TookError s t e :=
    took (speaks_frameRule f _) (raises_frameRule f _) step
  cases i with
  | rrq length name => exact framed (.rrq length name) step
  | wrq name => exact framed (.wrq name) step
  | data block payload => exact framed (.data block payload) step
  | ack block => exact framed (.ack block) step
  | error code => exact framed (.error code) step
  | cmd code tail => exact framed (.cmd code tail) step
  | debug => exact framed .debug step
  | cmdCrc value =>
    exact took (speaks_gate_bind (speaks_crcCommandRule value _)) (raises_gate_bind (raises_crcCommandRule value _))
      step
  | cmdBoot | cmdReset | cmdSwap | cmdBootInfo | cmdPowerOn | cmdPowerOff | cmdEnd | cmdSpiEnd | cmdTriggerWatchdog
  | cmdEraseSpi | cmdSetBank0 | cmdSetBank1 =>
    exact took (speaks_gate_bind (speaks_terminalRule _ _)) (raises_gate_bind (raises_terminalRule _ _)) step
  | empty => exact emptyReadStep_tookError opened holds silent reported step
  | frameIn =>
    by_cases presented : s.framePresented = false
    · rw [execFrameIn_unpresented presented] at step
      cases step
    replace presented : s.framePresented = true := by simpa using presented
    by_cases empty : s.flen = 0
    · rw [execFrameIn_empty presented empty] at step
      exact emptyReadStep_tookError opened holds silent reported step
    · rw [execFrameIn_frame presented (by omega), frontEnd] at step
      cases decoded : decodeFrame s.fb s.flen with
      | ok f =>
        rw [decoded] at step
        exact framed f step
      | error x =>
        rw [decoded] at step
        exact took (speaks_malformedRule x _) (raises_malformedRule x _) step
  | sessionReset | load | validate | swap | fixCrc | commit | crcRegion | crcBuf | setActive | crcInit | crcUpdate
  | crcFinal => simp [Instr.isFrame] at row

end Steps

/-- Settles O58: the rule that raised has left the boot contexts and TXQ as they were, and the class of its error says
what `takeError` does to the rest. -/
theorem errorClasses : Obligations.ErrorClasses := by
  intro s t i e row opened holds silent step reported
  obtain ⟨u, rfl, txq, kept, unchanged⟩ := exec_tookError opened holds silent reported row step
  refine ⟨fun c => ⟨(takeError_bc e u c).trans (kept.bc c), (takeError_loaded e u c).trans (kept.loaded c)⟩,
    (takeError_quiet e u).txq.trans txq, takeError_emptyReads kept.emptyReads, ?_⟩
  have reset (he : resets e) := takeError_resets he u
  cases e with
  | framing | state | sequence =>
    obtain rfl := unchanged id
    rfl
  | crcMismatch | storage | transport => exact reset trivial

end Sys2Proof.Machine
end
